-- ==== Sys2Proof/Word.lean ====
section
/-! DEFINITION. The word types of FXCORE: bytes of the text buffer, the 32-bit bus and command word
(20_memory.md R62, 30_encoding.md R90), the 128-bit data registers (10_state.md R22, R23) and the 256-bit
quantities of the limb engine (44_limb_engine.md R201). -/

namespace Sys2Proof

/-- One byte of TXT (10_state.md R35). -/
abbrev Byte := BitVec 8

/-- One bus word, command word or 32-bit register (20_memory.md R62). -/
abbrev Word32 := BitVec 32

/-- One 128-bit data register (10_state.md R22, R23). -/
abbrev Word128 := BitVec 128

/-- A four-limb quantity of the limb engine (44_limb_engine.md R201). -/
abbrev Word256 := BitVec 256

/-- The FRAC field of a command word, ten bits of two's complement (30_encoding.md R95). -/
abbrev Frac := BitVec 10

end Sys2Proof
end

