-- ==== Sys2Proof/Config.lean ====
section
/-! DEFINITION. What the spec leaves open: the two parameters FX_LATENCY and FX_BASE (92_eei_decisions.md D28, D2) and
the words read from TXT and TXTLEN while a render command is in flight (93_implementation_defined.md U1). Each is an
opaque constant: nothing can be proved of its value. -/

namespace Sys2Proof.Config

/-- FX_LATENCY (70_reset_and_hazards.md R345): how many steps lie between the acceptance of a command and its
completion step. It may depend on the command word, the latched operands and configuration, and the past (`n`, the
free counter of the state). DESIGN CHOICE, safe: notes/assumptions/2.md. -/
opaque fxLatency (n : Nat) (cmd : Word32) (opa opb opc : Word128) (rcfg : Word32) : Nat

/-- The word the `n`-th unspecified read returns (10_state.md R43: "any value, successive reads need not agree").
DEDUCED, safe: notes/assumptions/5.md. -/
opaque unspecifiedRead (n : Nat) : Word32

/-- FX_BASE in units of 4096 bytes (20_memory.md R61: 4096-byte aligned). DESIGN CHOICE, safe:
notes/assumptions/9.md. -/
opaque fxBasePage : Nat

/-- FX_BASE, the base address of the register window (20_memory.md R61). -/
def fxBase : Nat := 4096 * fxBasePage

end Sys2Proof.Config
end

