-- ==== Sys2Proof/Syntax.lean ====
section
/-! DEFINITION. The syntax of FXC-1 commands: one constructor of `Instr` per row of spec/opcode_table.json (an
operation with its flavour), each carrying the operand width, the signedness and the FRAC field
(30_encoding.md R91 to R96). -/

namespace Sys2Proof

/-- The operand width N selected by the W field (30_encoding.md R93). -/
inductive Width where
  | w8 | w16 | w32 | w64 | w128
  deriving DecidableEq, Repr

/-- The number of bits of a width (30_encoding.md R93). -/
def Width.bits : Width → Nat
  | .w8 => 8
  | .w16 => 16
  | .w32 => 32
  | .w64 => 64
  | .w128 => 128

/-- The signedness S selected by the SG bit (30_encoding.md R96). -/
inductive Sign where
  | unsigned | signed
  deriving DecidableEq, Repr

/-- The overflow policy selected by the FL field (30_encoding.md R94). -/
inductive Flavour where
  | unchecked | checked | wrapping | saturating | overflowing
  deriving DecidableEq, Repr

/-- The operation selected by the OP field (30_encoding.md R92). -/
inductive Op where
  | mul | div | muladd | rem | remeu | remi | remeui | sqrt | rdec | rbin | roct | rhexl | rhexu
  deriving DecidableEq, Repr

/-- A command of FXC-1: one constructor per row of the opcode table. `w` is N, `sg` is S, `f` the FRAC field. -/
inductive Instr where
  -- 41_multiply.md R150
  | mul (w : Width) (sg : Sign) (f : Frac)
  | mulC (w : Width) (sg : Sign) (f : Frac)
  | mulW (w : Width) (sg : Sign) (f : Frac)
  | mulS (w : Width) (sg : Sign) (f : Frac)
  | mulO (w : Width) (sg : Sign) (f : Frac)
  -- 42_divide_remainder.md R160
  | div (w : Width) (sg : Sign) (f : Frac)
  | divC (w : Width) (sg : Sign) (f : Frac)
  | divW (w : Width) (sg : Sign) (f : Frac)
  | divS (w : Width) (sg : Sign) (f : Frac)
  | divO (w : Width) (sg : Sign) (f : Frac)
  -- 43_muladd.md R190
  | muladd (w : Width) (sg : Sign) (f : Frac)
  | muladdC (w : Width) (sg : Sign) (f : Frac)
  | muladdW (w : Width) (sg : Sign) (f : Frac)
  | muladdS (w : Width) (sg : Sign) (f : Frac)
  | muladdO (w : Width) (sg : Sign) (f : Frac)
  -- 42_divide_remainder.md R163
  | rem (w : Width) (sg : Sign) (f : Frac)
  | remC (w : Width) (sg : Sign) (f : Frac)
  | remW (w : Width) (sg : Sign) (f : Frac)
  | remS (w : Width) (sg : Sign) (f : Frac)
  | remO (w : Width) (sg : Sign) (f : Frac)
  -- 42_divide_remainder.md R164
  | remeu (w : Width) (sg : Sign) (f : Frac)
  | remeuC (w : Width) (sg : Sign) (f : Frac)
  | remeuW (w : Width) (sg : Sign) (f : Frac)
  | remeuS (w : Width) (sg : Sign) (f : Frac)
  | remeuO (w : Width) (sg : Sign) (f : Frac)
  -- 42_divide_remainder.md R166
  | remi (w : Width) (sg : Sign) (f : Frac)
  | remiC (w : Width) (sg : Sign) (f : Frac)
  | remiW (w : Width) (sg : Sign) (f : Frac)
  | remiS (w : Width) (sg : Sign) (f : Frac)
  | remiO (w : Width) (sg : Sign) (f : Frac)
  -- 42_divide_remainder.md R168
  | remeui (w : Width) (sg : Sign) (f : Frac)
  | remeuiC (w : Width) (sg : Sign) (f : Frac)
  | remeuiW (w : Width) (sg : Sign) (f : Frac)
  | remeuiS (w : Width) (sg : Sign) (f : Frac)
  | remeuiO (w : Width) (sg : Sign) (f : Frac)
  -- 45_sqrt.md R235
  | sqrt (w : Width) (sg : Sign) (f : Frac)
  | sqrtC (w : Width) (sg : Sign) (f : Frac)
  -- 46_render.md R275
  | rdec (w : Width) (sg : Sign) (f : Frac)
  -- 46_render.md R276
  | rbin (w : Width) (sg : Sign) (f : Frac)
  -- 46_render.md R277
  | roct (w : Width) (sg : Sign) (f : Frac)
  -- 46_render.md R278
  | rhexl (w : Width) (sg : Sign) (f : Frac)
  -- 46_render.md R279
  | rhexu (w : Width) (sg : Sign) (f : Frac)
  deriving DecidableEq, Repr

/-- The fields of a command word that is legal so far as OP and FL go (30_encoding.md R91). -/
structure Fields where
  op : Op
  fl : Flavour
  w  : Width
  sg : Sign
  f  : Frac
  deriving DecidableEq, Repr

/-- The fields of a command: its operation and flavour are its row of the opcode table. The render commands have
FL = 0 (30_encoding.md R98). -/
def Instr.fields : Instr → Fields
  | .mul w sg f => ⟨.mul, .unchecked, w, sg, f⟩
  | .mulC w sg f => ⟨.mul, .checked, w, sg, f⟩
  | .mulW w sg f => ⟨.mul, .wrapping, w, sg, f⟩
  | .mulS w sg f => ⟨.mul, .saturating, w, sg, f⟩
  | .mulO w sg f => ⟨.mul, .overflowing, w, sg, f⟩
  | .div w sg f => ⟨.div, .unchecked, w, sg, f⟩
  | .divC w sg f => ⟨.div, .checked, w, sg, f⟩
  | .divW w sg f => ⟨.div, .wrapping, w, sg, f⟩
  | .divS w sg f => ⟨.div, .saturating, w, sg, f⟩
  | .divO w sg f => ⟨.div, .overflowing, w, sg, f⟩
  | .muladd w sg f => ⟨.muladd, .unchecked, w, sg, f⟩
  | .muladdC w sg f => ⟨.muladd, .checked, w, sg, f⟩
  | .muladdW w sg f => ⟨.muladd, .wrapping, w, sg, f⟩
  | .muladdS w sg f => ⟨.muladd, .saturating, w, sg, f⟩
  | .muladdO w sg f => ⟨.muladd, .overflowing, w, sg, f⟩
  | .rem w sg f => ⟨.rem, .unchecked, w, sg, f⟩
  | .remC w sg f => ⟨.rem, .checked, w, sg, f⟩
  | .remW w sg f => ⟨.rem, .wrapping, w, sg, f⟩
  | .remS w sg f => ⟨.rem, .saturating, w, sg, f⟩
  | .remO w sg f => ⟨.rem, .overflowing, w, sg, f⟩
  | .remeu w sg f => ⟨.remeu, .unchecked, w, sg, f⟩
  | .remeuC w sg f => ⟨.remeu, .checked, w, sg, f⟩
  | .remeuW w sg f => ⟨.remeu, .wrapping, w, sg, f⟩
  | .remeuS w sg f => ⟨.remeu, .saturating, w, sg, f⟩
  | .remeuO w sg f => ⟨.remeu, .overflowing, w, sg, f⟩
  | .remi w sg f => ⟨.remi, .unchecked, w, sg, f⟩
  | .remiC w sg f => ⟨.remi, .checked, w, sg, f⟩
  | .remiW w sg f => ⟨.remi, .wrapping, w, sg, f⟩
  | .remiS w sg f => ⟨.remi, .saturating, w, sg, f⟩
  | .remiO w sg f => ⟨.remi, .overflowing, w, sg, f⟩
  | .remeui w sg f => ⟨.remeui, .unchecked, w, sg, f⟩
  | .remeuiC w sg f => ⟨.remeui, .checked, w, sg, f⟩
  | .remeuiW w sg f => ⟨.remeui, .wrapping, w, sg, f⟩
  | .remeuiS w sg f => ⟨.remeui, .saturating, w, sg, f⟩
  | .remeuiO w sg f => ⟨.remeui, .overflowing, w, sg, f⟩
  | .sqrt w sg f => ⟨.sqrt, .unchecked, w, sg, f⟩
  | .sqrtC w sg f => ⟨.sqrt, .checked, w, sg, f⟩
  | .rdec w sg f => ⟨.rdec, .unchecked, w, sg, f⟩
  | .rbin w sg f => ⟨.rbin, .unchecked, w, sg, f⟩
  | .roct w sg f => ⟨.roct, .unchecked, w, sg, f⟩
  | .rhexl w sg f => ⟨.rhexl, .unchecked, w, sg, f⟩
  | .rhexu w sg f => ⟨.rhexu, .unchecked, w, sg, f⟩

end Sys2Proof
end

