-- ==== Sys2Proof/WellFormed.lean ====
section
/-! DEFINITION. Well-formed commands: the FRAC field lies in the operation's range (30_encoding.md R100). Every other
legality condition of 30_encoding.md R102 holds by the type of `Instr`. -/

namespace Sys2Proof

/-- 30_encoding.md R100: −N ≤ f ≤ 2N for MULADD, 0 ≤ f ≤ N for every other command. -/
def Instr.wellFormed (i : Instr) : Bool :=
  let p := i.fields
  let n : Int := p.w.bits
  let f : Int := p.f.toInt
  match p.op with
  | .muladd => decide (-n ≤ f ∧ f ≤ 2 * n)
  | _ => decide (0 ≤ f ∧ f ≤ n)

end Sys2Proof
end

