-- ==== Sys2Proof/Decode.lean ====
section
/-! DEFINITION. Decoding and encoding of FXC-1 command words (30_encoding.md R90 to R104), and the assembler
syntax of a command (R105). -/

namespace Sys2Proof

/-! ## Fields (30_encoding.md R91) -/

/-- OP, bits [5:0]. -/
def opField (v : Word32) : BitVec 6 := v.extractLsb' 0 6

/-- W, bits [8:6]. -/
def widthField (v : Word32) : BitVec 3 := v.extractLsb' 6 3

/-- SG, bit [9]. -/
def signField (v : Word32) : BitVec 1 := v.extractLsb' 9 1

/-- FL, bits [12:10]. -/
def flavourField (v : Word32) : BitVec 3 := v.extractLsb' 10 3

/-- FRAC, bits [22:13]. -/
def fracField (v : Word32) : Frac := v.extractLsb' 13 10

/-- RSV, bits [31:23]. -/
def reservedField (v : Word32) : BitVec 9 := v.extractLsb' 23 9

/-- The word with the given fields (30_encoding.md R91):
`word = OP | (W << 6) | (SG << 9) | (FL << 10) | (FRAC << 13)`, with RSV above them. -/
def packWord (rsv : BitVec 9) (f : Frac) (fl : BitVec 3) (sg : BitVec 1) (w : BitVec 3) (op : BitVec 6) : Word32 :=
  op.setWidth 32 ||| w.setWidth 32 <<< 6 ||| sg.setWidth 32 <<< 9 ||| fl.setWidth 32 <<< 10 ||| f.setWidth 32 <<< 13
    ||| rsv.setWidth 32 <<< 23

/-! ## Field codes -/

/-- 30_encoding.md R92, read: the operation of an OP value; every value not listed is reserved. -/
def opOf (b : BitVec 6) : Option Op :=
  match b with
  | 0x01#6 => some .mul
  | 0x02#6 => some .div
  | 0x03#6 => some .muladd
  | 0x04#6 => some .rem
  | 0x05#6 => some .remeu
  | 0x06#6 => some .remi
  | 0x07#6 => some .remeui
  | 0x08#6 => some .sqrt
  | 0x10#6 => some .rdec
  | 0x11#6 => some .rbin
  | 0x12#6 => some .roct
  | 0x13#6 => some .rhexl
  | 0x14#6 => some .rhexu
  | _ => none

/-- 30_encoding.md R92, written. -/
def opCode : Op → BitVec 6
  | .mul => 0x01#6
  | .div => 0x02#6
  | .muladd => 0x03#6
  | .rem => 0x04#6
  | .remeu => 0x05#6
  | .remi => 0x06#6
  | .remeui => 0x07#6
  | .sqrt => 0x08#6
  | .rdec => 0x10#6
  | .rbin => 0x11#6
  | .roct => 0x12#6
  | .rhexl => 0x13#6
  | .rhexu => 0x14#6

/-- 30_encoding.md R93, read: codes 5, 6 and 7 are reserved. -/
def widthOf (b : BitVec 3) : Option Width :=
  match b with
  | 0#3 => some .w8
  | 1#3 => some .w16
  | 2#3 => some .w32
  | 3#3 => some .w64
  | 4#3 => some .w128
  | _ => none

/-- 30_encoding.md R93, written. -/
def widthCode : Width → BitVec 3
  | .w8 => 0#3
  | .w16 => 1#3
  | .w32 => 2#3
  | .w64 => 3#3
  | .w128 => 4#3

/-- 30_encoding.md R94, read: codes 5, 6 and 7 are reserved. -/
def flavourOf (b : BitVec 3) : Option Flavour :=
  match b with
  | 0#3 => some .unchecked
  | 1#3 => some .checked
  | 2#3 => some .wrapping
  | 3#3 => some .saturating
  | 4#3 => some .overflowing
  | _ => none

/-- 30_encoding.md R94, written. -/
def flavourCode : Flavour → BitVec 3
  | .unchecked => 0#3
  | .checked => 1#3
  | .wrapping => 2#3
  | .saturating => 3#3
  | .overflowing => 4#3

/-- 30_encoding.md R96, read. -/
def signOf (b : BitVec 1) : Sign :=
  if b = 1#1 then .signed else .unsigned

/-- 30_encoding.md R96, written. -/
def signCode : Sign → BitVec 1
  | .unsigned => 0#1
  | .signed => 1#1

/-- The FRAC values an operation admits at a width (30_encoding.md R100). -/
def fracLegal (op : Op) (w : Width) (f : Frac) : Bool :=
  match op with
  | .muladd => decide (-(w.bits : Int) ≤ f.toInt) && decide (f.toInt ≤ 2 * (w.bits : Int))
  | _ => decide (0 ≤ f.toInt) && decide (f.toInt ≤ (w.bits : Int))

/-- The command of an operation and a flavour, where 30_encoding.md R98 allows the flavour for the operation. -/
def instrOf (op : Op) (fl : Flavour) (w : Width) (sg : Sign) (f : Frac) : Option Instr :=
  match op, fl with
  | .mul, .unchecked => some (.mul w sg f)
  | .mul, .checked => some (.mulC w sg f)
  | .mul, .wrapping => some (.mulW w sg f)
  | .mul, .saturating => some (.mulS w sg f)
  | .mul, .overflowing => some (.mulO w sg f)
  | .div, .unchecked => some (.div w sg f)
  | .div, .checked => some (.divC w sg f)
  | .div, .wrapping => some (.divW w sg f)
  | .div, .saturating => some (.divS w sg f)
  | .div, .overflowing => some (.divO w sg f)
  | .muladd, .unchecked => some (.muladd w sg f)
  | .muladd, .checked => some (.muladdC w sg f)
  | .muladd, .wrapping => some (.muladdW w sg f)
  | .muladd, .saturating => some (.muladdS w sg f)
  | .muladd, .overflowing => some (.muladdO w sg f)
  | .rem, .unchecked => some (.rem w sg f)
  | .rem, .checked => some (.remC w sg f)
  | .rem, .wrapping => some (.remW w sg f)
  | .rem, .saturating => some (.remS w sg f)
  | .rem, .overflowing => some (.remO w sg f)
  | .remeu, .unchecked => some (.remeu w sg f)
  | .remeu, .checked => some (.remeuC w sg f)
  | .remeu, .wrapping => some (.remeuW w sg f)
  | .remeu, .saturating => some (.remeuS w sg f)
  | .remeu, .overflowing => some (.remeuO w sg f)
  | .remi, .unchecked => some (.remi w sg f)
  | .remi, .checked => some (.remiC w sg f)
  | .remi, .wrapping => some (.remiW w sg f)
  | .remi, .saturating => some (.remiS w sg f)
  | .remi, .overflowing => some (.remiO w sg f)
  | .remeui, .unchecked => some (.remeui w sg f)
  | .remeui, .checked => some (.remeuiC w sg f)
  | .remeui, .wrapping => some (.remeuiW w sg f)
  | .remeui, .saturating => some (.remeuiS w sg f)
  | .remeui, .overflowing => some (.remeuiO w sg f)
  | .sqrt, .unchecked => some (.sqrt w sg f)
  | .sqrt, .checked => some (.sqrtC w sg f)
  | .rdec, .unchecked => some (.rdec w sg f)
  | .rbin, .unchecked => some (.rbin w sg f)
  | .roct, .unchecked => some (.roct w sg f)
  | .rhexl, .unchecked => some (.rhexl w sg f)
  | .rhexu, .unchecked => some (.rhexu w sg f)
  | _, _ => none

/-! ## Decoding and encoding -/

/-- Why a command word is illegal (30_encoding.md R101, R102). The host sees none of the reasons: every one completes
with ILLEGAL (60_exceptions.md R301). DESIGN CHOICE, safe: notes/assumptions/14.md. -/
inductive DecodeError where
  /-- A bit of [31:23] is 1 (30_encoding.md R97). -/
  | reservedBits
  /-- OP is not in the table of 30_encoding.md R92. -/
  | reservedOp
  /-- W is 5, 6 or 7 (30_encoding.md R93). -/
  | reservedWidth
  /-- FL is 5, 6 or 7 (30_encoding.md R94). -/
  | reservedFlavour
  /-- FL is not legal for OP (30_encoding.md R98). -/
  | flavourNotLegal
  /-- FRAC is out of range for OP and N (30_encoding.md R100). -/
  | fracOutOfRange
  deriving DecidableEq, Repr

/-- The command of a word, or the reason the word is illegal (30_encoding.md R101). -/
def decode (v : Word32) : Except DecodeError Instr :=
  if reservedField v ≠ 0#9 then .error .reservedBits
  else
    match opOf (opField v) with
    | none => .error .reservedOp
    | some op =>
      match widthOf (widthField v) with
      | none => .error .reservedWidth
      | some w =>
        match flavourOf (flavourField v) with
        | none => .error .reservedFlavour
        | some fl =>
          match instrOf op fl w (signOf (signField v)) (fracField v) with
          | none => .error .flavourNotLegal
          | some i => if fracLegal op w (fracField v) then .ok i else .error .fracOutOfRange

/-- The word of a command (30_encoding.md R91), reserved bits 0 (R97). -/
def encode (i : Instr) : Word32 :=
  let p := i.fields
  packWord 0#9 p.f (flavourCode p.fl) (signCode p.sg) (widthCode p.w) (opCode p.op)

/-- The legality predicate of 30_encoding.md R102, clause by clause, on the numbers the fields hold. It is the spec's
own text beside `decode`, which the machine runs. -/
def legalWord (v : Word32) : Bool :=
  let op := (opField v).toNat
  let wc := (widthField v).toNat
  let fl := (flavourField v).toNat
  let f := (fracField v).toInt
  let n : Int := ((8 <<< wc : Nat) : Int)
  decide ((reservedField v).toNat = 0)
    && (decide (0x01 ≤ op ∧ op ≤ 0x08) || decide (0x10 ≤ op ∧ op ≤ 0x14))
    && decide (wc ≤ 4)
    && (if 0x01 ≤ op ∧ op ≤ 0x07 then decide (fl ≤ 4) else if op = 0x08 then decide (fl ≤ 1) else decide (fl = 0))
    && (if op = 0x03 then decide (-n ≤ f ∧ f ≤ 2 * n) else decide (0 ≤ f ∧ f ≤ n))

/-- Whether a word is a render command, legal or not: OP names one of the five render operations (30_encoding.md R92;
46_render.md R274 speaks of "an illegal render command"). DEDUCED, safe: notes/assumptions/6.md. -/
def isRenderWord (v : Word32) : Bool :=
  decide (0x10 ≤ (opField v).toNat) && decide ((opField v).toNat ≤ 0x14)

/-- The command the decoder reads from a row's word, numbered as spec/opcode_table.json numbers the bits. A command is
exactly one 32-bit word, written to CMD as a whole (30_encoding.md R90). -/
def decodeTableWord (nbits w : Nat) : Option Instr :=
  match decode (BitVec.ofNat 32 (w % 2 ^ nbits)) with
  | .ok i => some i
  | .error _ => none

/-! ## Assembler syntax (30_encoding.md R105) -/

/-- The mnemonic of an operation (30_encoding.md R92). -/
def opName : Op → String
  | .mul => "MUL"
  | .div => "DIV"
  | .muladd => "MULADD"
  | .rem => "REM"
  | .remeu => "REMEU"
  | .remi => "REMI"
  | .remeui => "REMEUI"
  | .sqrt => "SQRT"
  | .rdec => "RDEC"
  | .rbin => "RBIN"
  | .roct => "ROCT"
  | .rhexl => "RHEXL"
  | .rhexu => "RHEXU"

/-- The flavour suffix of 30_encoding.md R105; UNCHECKED has none. -/
def flavourSuffix : Flavour → String
  | .unchecked => ""
  | .checked => ".C"
  | .wrapping => ".W"
  | .saturating => ".S"
  | .overflowing => ".O"

/-- The type letter of 30_encoding.md R105. -/
def signLetter : Sign → String
  | .unsigned => "U"
  | .signed => "I"

/-- The width of a type in 30_encoding.md R105. -/
def widthText : Width → String
  | .w8 => "8"
  | .w16 => "16"
  | .w32 => "32"
  | .w64 => "64"
  | .w128 => "128"

/-- The assembler text of a command: `<MNEMONIC>.<T><N>[.<FLV>] <f>` (30_encoding.md R105). -/
def asmText (i : Instr) : String :=
  let p := i.fields
  opName p.op ++ "." ++ signLetter p.sg ++ widthText p.w ++ flavourSuffix p.fl ++ " " ++ toString p.f.toInt

end Sys2Proof
end

