-- ==== Sys2Proof/Machine/State.lean ====
section
/-! DEFINITION. The architectural state of FXCORE (10_state.md R50), the host's pending actions, and the reasons a step
can stop. -/

namespace Sys2Proof.Machine

/-- The error codes of STATUS.ERR (60_exceptions.md R301). Codes 5 to 15 are never written (10_state.md R33), so the
type has no value for them: notes/assumptions/13.md. -/
inductive ErrCode where
  | none | illegal | divzero | overflow | domain
  deriving DecidableEq, Repr

/-- The record `L` that INFLIGHT holds while a command is in flight (10_state.md R40). -/
structure Latch where
  cmd  : Word32
  opa  : Word128
  opb  : Word128
  opc  : Word128
  rcfg : Word32
  deriving DecidableEq, Repr

/-- A byte memory: index and byte, indexes strictly rising, no byte listed that an unlisted index reads as
(`Memory.wf`, Sys2Proof/Machine/Ops.lean). -/
abbrev Memory := List Host.Cell

/-- What the host may do to FXCORE (20_memory.md R76): a read or a write of `bytes` bytes at a window offset (R62), the
polling loop WAIT of 30_encoding.md R107, and the reset input (70_reset_and_hazards.md R330).
notes/assumptions/3.md, 8.md and 15.md. -/
inductive HostOp where
  | rd (bytes off : Nat)
  | wr (bytes off : Nat) (v : Word32)
  | wait
  | reset
  deriving DecidableEq, Repr

/-- Every piece of state of 10_state.md R50, then the model's own fields. STATUS is held by its fields
(10_state.md R27): BUSY is no storage bit (R28). TXT is held as the bytes that differ from 0x00, its reset contents,
by rising index (notes/assumptions/12.md). -/
structure State where
  /-- OPA, OPB, OPC (10_state.md R22). -/
  opa : Word128
  opb : Word128
  opc : Word128
  /-- RES (10_state.md R23). -/
  res : Word128
  /-- CMD: the last accepted command word (10_state.md R25). -/
  cmd : Word32
  /-- RCFG (10_state.md R26). -/
  rcfg : Word32
  /-- STATUS.DONE (10_state.md R29). -/
  done : Bool
  /-- STATUS.OV (10_state.md R31). -/
  ov : Bool
  /-- STATUS.ABSENT (10_state.md R32). -/
  absent : Bool
  /-- STATUS.ERR (10_state.md R33). -/
  err : ErrCode
  /-- STATUS.CMDLOST (10_state.md R27, R42). -/
  cmdlost : Bool
  /-- TXTLEN (10_state.md R34). -/
  txtlen : Word32
  /-- TXT (10_state.md R35): index and byte, unlisted indexes hold 0x00. -/
  txt : Memory
  /-- INFLIGHT (10_state.md R40). -/
  inflight : Option Latch
  /-- The model's own: steps left before the completion step is due (notes/assumptions/2.md). -/
  countdown : Nat
  /-- The model's own: the host's actions not yet performed, oldest first (notes/assumptions/3.md). -/
  hostQueue : List HostOp
  /-- The model's own: the word the host's last read returned (notes/assumptions/3.md). -/
  readData : Word32
  /-- The model's own: the counter free values are applied to (notes/assumptions/2.md, 5.md). -/
  freeTick : Nat
  deriving DecidableEq, Repr

/-- Why a step faults. FXCORE itself has no fault: its errors are completions with a code (60_exceptions.md R306). -/
inductive Fault where
  /-- Raised by `exec` applied to a state with no command in flight. `step` never does that: a completion step exists
  only while INFLIGHT ≠ none (10_state.md R41). DESIGN CHOICE, safe: notes/assumptions/10.md. -/
  | noCommandInFlight
  deriving DecidableEq, Repr

/-- Why a step refuses. -/
inductive Refusal where
  /-- An instruction without a meaning. No arm of `exec` uses it. Safe. -/
  | notModelled (mnemonic : String)
  /-- Raised by a host access that is not of four bytes, or not at a multiple of 4: "a model refuses a program that
  performs one" (20_memory.md R63; 93_implementation_defined.md U2). Safe: notes/assumptions/7.md. -/
  | accessOutsideInterface
  /-- Raised by a host access at an offset of 0x1000 or more: "What lies outside the window is the platform's"
  (20_memory.md R62, R68). Safe: notes/assumptions/7.md. -/
  | accessOutsideWindow
  deriving DecidableEq, Repr

/-- The machine right after reset (10_state.md R50, 70_reset_and_hazards.md R330). The last four fields are the
model's own: DESIGN CHOICE, notes/assumptions/4.md. -/
def State.reset : State where
  opa := 0#128
  opb := 0#128
  opc := 0#128
  res := 0#128
  cmd := 0x00000000#32
  rcfg := 0x08000000#32
  done := false
  ov := false
  absent := false
  err := .none
  cmdlost := false
  txtlen := 0#32
  txt := []
  inflight := .none
  countdown := 0
  hostQueue := []
  readData := 0#32
  freeTick := 0

end Sys2Proof.Machine
end

