-- ==== Sys2Proof/Machine/Ops.lean ====
section
/-! DEFINITION. The named operations on FXCORE's state: the text memory, the register window as the host reads and
writes it (20_memory.md), acceptance and completion of a command (10_state.md R40 to R42), the report of an error
(60_exceptions.md R300, R302), reset, and one action of the host. -/

namespace Sys2Proof.Machine

/-! ## The text memory (10_state.md R35) -/

/-- The number of bytes of TXT (10_state.md R35). -/
def txtSize : Nat := 512

/-- The byte at an index; an unlisted index reads 0x00, the reset contents of TXT (10_state.md R35, R50). -/
def Memory.read : Memory → Nat → Byte
  | [], _ => 0#8
  | (i, b) :: m, k => if k = i then b else Memory.read m k

/-- Strictly rising from `lo` on, every index below `txtSize`, no byte 0x00. -/
def Memory.wfFrom (lo : Nat) : Memory → Bool
  | [] => true
  | (i, b) :: m => decide (lo ≤ i) && decide (i < txtSize) && decide (b ≠ 0#8) && Memory.wfFrom (i + 1) m

/-- The canonical form of the text memory: equal contents are equal lists. -/
def Memory.wf (m : Memory) : Bool := Memory.wfFrom 0 m

/-- The memory whose bytes from index `k` on are the list's, all others 0x00. -/
def Memory.ofBytesFrom (k : Nat) : List Byte → Memory
  | [] => []
  | b :: bs => if b = 0#8 then Memory.ofBytesFrom (k + 1) bs else (k, b) :: Memory.ofBytesFrom (k + 1) bs

/-- The memory that holds a text: TXT[i] is byte i of the text, and 0x00 beyond it (46_render.md R274). -/
def Memory.ofBytes (text : List Byte) : Memory := Memory.ofBytesFrom 0 text

/-- Word `j` of TXT, packed little-endian (20_memory.md R66). -/
def Memory.word (m : Memory) (j : Nat) : Word32 :=
  (m.read (4 * j)).setWidth 32 ||| (m.read (4 * j + 1)).setWidth 32 <<< 8 ||| (m.read (4 * j + 2)).setWidth 32 <<< 16
    ||| (m.read (4 * j + 3)).setWidth 32 <<< 24

/-! ## The register window (20_memory.md R61 to R67) -/

/-- The number of bytes of the register window (20_memory.md R61). -/
def windowSize : Nat := 0x1000

/-- The window offset of a bus address: FXCORE decodes the 4096 bytes from FX_BASE (20_memory.md R61).
notes/assumptions/9.md. -/
def windowOffset (addr : Nat) : Option Nat :=
  if Config.fxBase ≤ addr ∧ addr < Config.fxBase + windowSize then some (addr - Config.fxBase) else none

/-- The word of the register map a window offset names (20_memory.md R64): a word of a 128-bit register, a 32-bit
register, word `j` of TXT, or a reserved offset. -/
inductive RegWord where
  | opa (k : Nat)
  | opb (k : Nat)
  | opc (k : Nat)
  | cmd
  | rcfg
  | status
  | txtlen
  | res (k : Nat)
  | txt (j : Nat)
  | reserved
  deriving DecidableEq, Repr

/-- The register map (20_memory.md R64) at the word that holds offset `off`. -/
def regAt (off : Nat) : RegWord :=
  if off < 0x010 then .opa (off / 4)
  else if off < 0x020 then .opb ((off - 0x010) / 4)
  else if off < 0x030 then .opc ((off - 0x020) / 4)
  else if off < 0x034 then .cmd
  else if off < 0x038 then .rcfg
  else if off < 0x03C then .status
  else if off < 0x040 then .txtlen
  else if off < 0x050 then .res ((off - 0x040) / 4)
  else if off < 0x100 then .reserved
  else if off < 0x300 then .txt ((off - 0x100) / 4)
  else .reserved

/-- Word `k` of a 128-bit register, least significant first (20_memory.md R65). -/
def wordOf (r : Word128) (k : Nat) : Word32 := r.extractLsb' (32 * k) 32

/-- A 128-bit register with word `k` replaced, its other words unchanged (20_memory.md R65). -/
def setWordOf (r : Word128) (k : Nat) (v : Word32) : Word128 :=
  (r &&& ~~~(0xFFFFFFFF#128 <<< (32 * k))) ||| (v.setWidth 128 <<< (32 * k))

/-- The bits of RCFG that a write stores and a read shows; bits [31:30] read 0 (10_state.md R26, 20_memory.md R67). -/
def rcfgMask : Word32 := 0x3FFFFFFF#32

/-- The bits of TXTLEN that a read shows; bits [31:10] read 0 (10_state.md R34). -/
def txtlenMask : Word32 := 0x000003FF#32

/-- The code of STATUS.ERR (60_exceptions.md R301). -/
def errCode : ErrCode → BitVec 4
  | .none => 0#4
  | .illegal => 1#4
  | .divzero => 2#4
  | .overflow => 3#4
  | .domain => 4#4

/-- STATUS.BUSY (10_state.md R28): a command is in flight. -/
def busy (s : State) : Bool := s.inflight.isSome

/-- STATUS as the host reads it (10_state.md R27), bits [31:9] 0. -/
def statusWord (s : State) : Word32 :=
  (BitVec.ofBool (busy s)).setWidth 32 ||| (BitVec.ofBool s.done).setWidth 32 <<< 1
    ||| (BitVec.ofBool s.ov).setWidth 32 <<< 2 ||| (BitVec.ofBool s.absent).setWidth 32 <<< 3
    ||| (errCode s.err).setWidth 32 <<< 4 ||| (BitVec.ofBool s.cmdlost).setWidth 32 <<< 8

/-- The value a word of the register map holds (20_memory.md R64, R67). -/
def regWord (s : State) : RegWord → Word32
  | .opa k => wordOf s.opa k
  | .opb k => wordOf s.opb k
  | .opc k => wordOf s.opc k
  | .cmd => s.cmd
  | .rcfg => s.rcfg &&& rcfgMask
  | .status => statusWord s
  | .txtlen => s.txtlen &&& txtlenMask
  | .res k => wordOf s.res k
  | .txt j => s.txt.word j
  | .reserved => 0#32

/-- A render command is in flight (10_state.md R43). -/
def renderInFlight (s : State) : Bool :=
  match s.inflight with
  | some l => isRenderWord l.cmd
  | none => false

/-- The words whose read is unspecified: TXT and TXTLEN while a render command is in flight (10_state.md R43). -/
def readsUnspecified (s : State) : RegWord → Bool
  | .txt _ => renderInFlight s
  | .txtlen => renderInFlight s
  | _ => false

/-- What a host read of a word of the map does: the word goes to the host, and no register of FXCORE changes
(20_memory.md R71). An unspecified word is a free value, a new one at each read (10_state.md R43, U1). -/
def readReg (s : State) (r : RegWord) : State :=
  if readsUnspecified s r then
    { s with readData := Config.unspecifiedRead s.freeTick, freeTick := s.freeTick + 1 }
  else { s with readData := regWord s r }

/-! ## Acceptance (10_state.md R40, R42) -/

/-- The record acceptance latches: the word and the registers as of this write (10_state.md R40). -/
def latchNow (v : Word32) (s : State) : Latch :=
  { cmd := v, opa := s.opa, opb := s.opb, opc := s.opc, rcfg := s.rcfg }

/-- The writes of acceptance (10_state.md R40). -/
def latchCommand (v : Word32) (s : State) : State :=
  { s with
    cmd := v
    inflight := some (latchNow v s)
    done := false
    ov := false
    absent := false
    err := .none }

/-- Acceptance of a command word, legal or not (10_state.md R40). How many steps later its completion step is due is
the free value FX_LATENCY (70_reset_and_hazards.md R345). -/
def accept (v : Word32) (s : State) : State :=
  { latchCommand v s with
    countdown := Config.fxLatency s.freeTick v s.opa s.opb s.opc s.rcfg
    freeTick := s.freeTick + 1 }

/-- A CMD write while a command is in flight is dropped (10_state.md R42). -/
def dropCommand (s : State) : State := { s with cmdlost := true }

/-- A host write to CMD: accepted when nothing is in flight, else dropped (10_state.md R40, R42). -/
def issueCommand (v : Word32) (s : State) : State :=
  if busy s then dropCommand s else accept v s

/-- A host write of a word of the map (20_memory.md R64, R65, R67; STATUS: 10_state.md R27). -/
def writeReg (s : State) (r : RegWord) (v : Word32) : State :=
  match r with
  | .opa k => { s with opa := setWordOf s.opa k v }
  | .opb k => { s with opb := setWordOf s.opb k v }
  | .opc k => { s with opc := setWordOf s.opc k v }
  | .cmd => issueCommand v s
  | .rcfg => { s with rcfg := v &&& rcfgMask }
  | .status => if v.getLsbD 8 then { s with cmdlost := false } else s
  | .txtlen => s
  | .res _ => s
  | .txt _ => s
  | .reserved => s

/-! ## Completion (10_state.md R41) and the report of an error (60_exceptions.md R300, R302) -/

/-- What a completion step writes: RES if there is a result, TXT and TXTLEN if there is a text, and the STATUS fields
(10_state.md R41, 40_arith_common.md R136, 46_render.md R274). -/
structure Completion where
  res    : Option Word128 := none
  text   : Option (List Byte) := none
  ov     : Bool := false
  absent : Bool := false
  err    : ErrCode := .none
  deriving DecidableEq, Repr

/-- The completion step's writes (10_state.md R41): the status fields, RES, TXT and TXTLEN where the result says so,
DONE = 1 and INFLIGHT = none. No completion writes OPA, OPB, OPC, RCFG, CMD or CMDLOST (60_exceptions.md R302). -/
def complete (s : State) (c : Completion) : State :=
  { s with
    res := c.res.getD s.res
    txt := (c.text.map Memory.ofBytes).getD s.txt
    txtlen := (c.text.map fun t => BitVec.ofNat 32 t.length).getD s.txtlen
    ov := c.ov
    absent := c.absent
    err := c.err
    done := true
    inflight := none }

/-- `raise E` (60_exceptions.md R300, R302): ERR is the code, OV is 1 for OVERFLOW and 0 for every other code, ABSENT
is 0, and no result is written. This is FXCORE's only form of exception (R306). -/
def raiseError (e : ErrCode) : Completion :=
  { ov := decide (e = .overflow), err := e }

/-- A completion step computed from the latch alone (10_state.md R41). -/
def onLatch (s : State) (result : Latch → Completion) : Host.Outcome State Fault Refusal :=
  match s.inflight with
  | some l => .next (complete s (result l))
  | none => .fault .noCommandInFlight

/-- Completion of an illegal word (30_encoding.md R101, 60_exceptions.md R301). -/
def completeIllegal (s : State) : Host.Outcome State Fault Refusal :=
  onLatch s fun _ => raiseError .illegal

/-- The latch of the command whose completion step is due: a command is in flight and its latency has run out
(10_state.md R41, 70_reset_and_hazards.md R345). -/
def completionDue (s : State) : Option Latch :=
  match s.inflight with
  | some l => if s.countdown = 0 then some l else none
  | none => none

/-! ## Reset (70_reset_and_hazards.md R330) -/

/-- The reset input: every state of FXCORE takes its reset value and a command in flight is abandoned. The host's
own actions and the free values' counter go on. notes/assumptions/8.md. -/
def resetInput (s : State) : State :=
  { State.reset with hostQueue := s.hostQueue, readData := s.readData, freeTick := s.freeTick }

/-! ## One action of the host (20_memory.md R72, R76) -/

/-- Why an access is refused, if it is (20_memory.md R62, R63). -/
def accessRefusal (bytes off : Nat) : Option Refusal :=
  if bytes ≠ 4 ∨ off % 4 ≠ 0 then some .accessOutsideInterface
  else if windowSize ≤ off then some .accessOutsideWindow
  else none

/-- A read of the window (20_memory.md R62). -/
def hostRead (bytes off : Nat) (s : State) : Host.Outcome State Fault Refusal :=
  match accessRefusal bytes off with
  | some r => .refused r
  | none => .next (readReg s (regAt off))

/-- A write of the window (20_memory.md R62). -/
def hostWrite (bytes off : Nat) (v : Word32) (s : State) : Host.Outcome State Fault Refusal :=
  match accessRefusal bytes off with
  | some r => .refused r
  | none => .next (writeReg s (regAt off) v)

/-- One poll of WAIT (30_encoding.md R107): a read of STATUS, and WAIT again while bit 0 of the word is 1.
notes/assumptions/15.md. -/
def hostWait (rest : List HostOp) (s : State) : State :=
  let t := readReg s .status
  if t.readData.getLsbD 0 then { t with hostQueue := .wait :: rest } else { t with hostQueue := rest }

/-- The host's next action; with none pending nothing happens. notes/assumptions/3.md. -/
def hostStep (s : State) : Host.Outcome State Fault Refusal :=
  match s.hostQueue with
  | [] => .next s
  | .rd bytes off :: rest => hostRead bytes off { s with hostQueue := rest }
  | .wr bytes off v :: rest => hostWrite bytes off v { s with hostQueue := rest }
  | .wait :: rest => .next (hostWait rest s)
  | .reset :: rest => .next (resetInput { s with hostQueue := rest })

/-- One step passes (70_reset_and_hazards.md R345). -/
def passStep (s : State) : State := { s with countdown := s.countdown - 1 }

end Sys2Proof.Machine
end

