-- ==== Sys2Proof/Machine/Operands.lean ====
section
/-! DEFINITION. Operand forms: how latched patterns become integers (40_arith_common.md R130, 00_scope.md section 5),
the exact shift (R134), and the fields of RCFG (10_state.md R26). -/

namespace Sys2Proof.Machine

/-- MIN(N, S) (00_scope.md section 5.2). -/
def minVal (w : Width) : Sign → Int
  | .unsigned => 0
  | .signed => -((2 ^ (w.bits - 1) : Nat) : Int)

/-- MAX(N, S) (00_scope.md section 5.2). -/
def maxVal (w : Width) : Sign → Int
  | .unsigned => ((2 ^ w.bits : Nat) : Int) - 1
  | .signed => ((2 ^ (w.bits - 1) : Nat) : Int) - 1

/-- Repr(x, N, S) (00_scope.md section 5.2): x is representable. -/
abbrev Representable (w : Width) (sg : Sign) (x : Int) : Prop := minVal w sg ≤ x ∧ x ≤ maxVal w sg

/-- val(p[N−1:0], N, S) (00_scope.md section 5.2): the integer an operand register holds for a command of width N.
Bits [127:N] are ignored (10_state.md R22). -/
def val (w : Width) (sg : Sign) (p : Word128) : Int :=
  match sg with
  | .unsigned => ((p.setWidth w.bits).toNat : Int)
  | .signed => (p.setWidth w.bits).toInt

/-- ext(wrap_N(x)) (10_state.md R23, 40_arith_common.md R136, R142): the N-bit pattern of x, sign- or zero-extended to
the 128 bits of RES. -/
def resultPattern (w : Width) (sg : Sign) (x : Int) : Word128 :=
  match sg with
  | .unsigned => (BitVec.ofInt w.bits x).setWidth 128
  | .signed => (BitVec.ofInt w.bits x).signExtend 128

/-- x >> k on an exact integer, floor(x / 2^k): it rounds toward minus infinity (40_arith_common.md R134). -/
def floorShift (x : Int) (k : Nat) : Int := x / ((2 ^ k : Nat) : Int)

/-- x << k on an exact integer, x · 2^k. -/
def exactShift (x : Int) (k : Nat) : Int := x * ((2 ^ k : Nat) : Int)

/-- The fractional-bit count of a command whose legal f is not negative. -/
def fracCount (f : Frac) : Nat := f.toInt.toNat

/-! ## The fields of RCFG (10_state.md R26) -/

/-- RCFG.PREC_EN, bit [0]. -/
def rcfgPrecEn (r : Word32) : Bool := r.getLsbD 0

/-- RCFG.PREC, bits [8:1]. -/
def rcfgPrec (r : Word32) : Nat := (r.extractLsb' 1 8).toNat

/-- RCFG.WIDTH, bits [16:9]. -/
def rcfgWidth (r : Word32) : Nat := (r.extractLsb' 9 8).toNat

/-- The values of RCFG.ALIGN (10_state.md R26). -/
inductive Align where
  | unspecified | left | right | center
  deriving DecidableEq, Repr

/-- RCFG.ALIGN, bits [18:17]. -/
def rcfgAlign (r : Word32) : Align :=
  match r.extractLsb' 17 2 with
  | 1#2 => .left
  | 2#2 => .right
  | 3#2 => .center
  | _ => .unspecified

/-- RCFG.ZPAD, bit [19]. -/
def rcfgZpad (r : Word32) : Bool := r.getLsbD 19

/-- RCFG.ALT, bit [20]. -/
def rcfgAlt (r : Word32) : Bool := r.getLsbD 20

/-- RCFG.PLUS, bit [21]. -/
def rcfgPlus (r : Word32) : Bool := r.getLsbD 21

/-- RCFG.FILL, bits [29:22]. -/
def rcfgFill (r : Word32) : Byte := r.extractLsb' 22 8

end Sys2Proof.Machine
end

