-- ==== Sys2Proof/Machine/Flags.lean ====
section
/-! DEFINITION. Outcomes and flavours: what a command's outcome writes to RES, OV, ABSENT and ERR
(40_arith_common.md R135 to R138, 45_sqrt.md R236). -/

namespace Sys2Proof.Machine

/-- The outcome an arithmetic command's pseudocode ends in (40_arith_common.md R135). -/
inductive ArithOutcome where
  /-- The exact result. -/
  | ok (x : Int)
  /-- An error. -/
  | err (e : ErrCode)
  /-- The Euclidean adjustment of the negative remainder r gives x, which is not representable. -/
  | euOvf (r x : Int)
  deriving DecidableEq, Repr

/-- What SQRT's pseudocode ends in (45_sqrt.md R235). -/
inductive SqrtOutcome where
  | ok (r : Int)
  | err (e : ErrCode)
  /-- A negative signed operand. -/
  | domain
  deriving DecidableEq, Repr

/-- The result x is representable (40_arith_common.md R136, row V = 0). -/
def writeResult (w : Width) (sg : Sign) (x : Int) : Completion :=
  { res := some (resultPattern w sg x) }

/-- An overflowing result that the flavour writes all the same: OV = 1. -/
def writeOverflowed (w : Width) (sg : Sign) (x : Int) : Completion :=
  { res := some (resultPattern w sg x), ov := true }

/-- An absent result on overflow (40_arith_common.md R136, CHECKED). -/
def absentOverflow : Completion := { ov := true, absent := true }

/-- The representable extreme on the side of the exact result (40_arith_common.md R141). -/
def saturated (w : Width) (sg : Sign) (x : Int) : Int :=
  if maxVal w sg < x then maxVal w sg else minVal w sg

/-- Applying the flavour to Ok(x) with V = 1 (40_arith_common.md R136). -/
def overflowed (fl : Flavour) (w : Width) (sg : Sign) (x : Int) : Completion :=
  match fl with
  | .unchecked => raiseError .overflow
  | .checked => absentOverflow
  | .wrapping => writeOverflowed w sg x
  | .saturating => writeOverflowed w sg (saturated w sg x)
  | .overflowing => writeOverflowed w sg x

/-- Applying the flavour to EuOvf(r, x) (40_arith_common.md R138): the wrapped forms write the unadjusted remainder. -/
def euOverflowed (fl : Flavour) (w : Width) (sg : Sign) (r : Int) : Completion :=
  match fl with
  | .unchecked => raiseError .overflow
  | .checked => absentOverflow
  | .wrapping => writeOverflowed w sg r
  | .saturating => writeOverflowed w sg (maxVal w sg)
  | .overflowing => writeOverflowed w sg r

/-- Applying the flavour to an outcome (40_arith_common.md R136, R137, R138). -/
def applyFlavour (fl : Flavour) (w : Width) (sg : Sign) (o : ArithOutcome) : Completion :=
  match o with
  | .ok x => if Representable w sg x then writeResult w sg x else overflowed fl w sg x
  | .err e => raiseError e
  | .euOvf r _ => euOverflowed fl w sg r

/-- What SQRT writes under UNCHECKED (45_sqrt.md R236). -/
def sqrtUnchecked (w : Width) (sg : Sign) (o : SqrtOutcome) : Completion :=
  match o with
  | .ok r => if Representable w sg r then writeResult w sg r else raiseError .overflow
  | .domain => raiseError .domain
  | .err e => raiseError e

/-- What SQRT writes under CHECKED (45_sqrt.md R236): a negative operand is an absent result with OV = 0. -/
def sqrtChecked (w : Width) (sg : Sign) (o : SqrtOutcome) : Completion :=
  match o with
  | .ok r => if Representable w sg r then writeResult w sg r else absentOverflow
  | .domain => { absent := true }
  | .err e => raiseError e

end Sys2Proof.Machine
end

