-- ==== Sys2Proof/Machine/Divide.lean ====
section
/-! DEFINITION. The fixed-point divide DIV (42_divide_remainder.md R160 to R162). -/

namespace Sys2Proof.Machine

/-- DIV (42_divide_remainder.md R160): the dividend shifted left by f, divided, rounding toward zero (R161). A zero
divisor is an error in every flavour (R162). -/
def divOutcome (w : Width) (sg : Sign) (f : Frac) (l : Latch) : ArithOutcome :=
  if fracLegal .div w f then
    if val w sg l.opb = 0 then .err .divzero
    else .ok ((exactShift (val w sg l.opa) (fracCount f)).tdiv (val w sg l.opb))
  else .err .illegal

/-- DIV (42_divide_remainder.md R160). -/
def execDiv (w : Width) (sg : Sign) (f : Frac) (s : State) : Host.Outcome State Fault Refusal :=
  onLatch s fun l => applyFlavour .unchecked w sg (divOutcome w sg f l)

/-- DIV.C (42_divide_remainder.md R160). -/
def execDivC (w : Width) (sg : Sign) (f : Frac) (s : State) : Host.Outcome State Fault Refusal :=
  onLatch s fun l => applyFlavour .checked w sg (divOutcome w sg f l)

/-- DIV.W (42_divide_remainder.md R160). -/
def execDivW (w : Width) (sg : Sign) (f : Frac) (s : State) : Host.Outcome State Fault Refusal :=
  onLatch s fun l => applyFlavour .wrapping w sg (divOutcome w sg f l)

/-- DIV.S (42_divide_remainder.md R160). -/
def execDivS (w : Width) (sg : Sign) (f : Frac) (s : State) : Host.Outcome State Fault Refusal :=
  onLatch s fun l => applyFlavour .saturating w sg (divOutcome w sg f l)

/-- DIV.O (42_divide_remainder.md R160). -/
def execDivO (w : Width) (sg : Sign) (f : Frac) (s : State) : Host.Outcome State Fault Refusal :=
  onLatch s fun l => applyFlavour .overflowing w sg (divOutcome w sg f l)

end Sys2Proof.Machine
end

