-- ==== Sys2Proof/Machine/MulAdd.lean ====
section
/-! DEFINITION. The fused multiply-add MULADD (43_muladd.md R190, R191). -/

namespace Sys2Proof.Machine

/-- floor(P · 2^−f) for a shift count of either sign (43_muladd.md R190): a right shift when f ≥ 0, an exact left
shift when f < 0. -/
def scaleProduct (p f : Int) : Int :=
  if 0 ≤ f then floorShift p f.toNat else exactShift p (-f).toNat

/-- MULADD (43_muladd.md R190): the product is rounded once, then the addend is added at the result's scale (R191). -/
def muladdOutcome (w : Width) (sg : Sign) (f : Frac) (l : Latch) : ArithOutcome :=
  if fracLegal .muladd w f then
    .ok (scaleProduct (val w sg l.opa * val w sg l.opb) f.toInt + val w sg l.opc)
  else .err .illegal

/-- MULADD (43_muladd.md R190). -/
def execMuladd (w : Width) (sg : Sign) (f : Frac) (s : State) : Host.Outcome State Fault Refusal :=
  onLatch s fun l => applyFlavour .unchecked w sg (muladdOutcome w sg f l)

/-- MULADD.C (43_muladd.md R190). -/
def execMuladdC (w : Width) (sg : Sign) (f : Frac) (s : State) : Host.Outcome State Fault Refusal :=
  onLatch s fun l => applyFlavour .checked w sg (muladdOutcome w sg f l)

/-- MULADD.W (43_muladd.md R190). -/
def execMuladdW (w : Width) (sg : Sign) (f : Frac) (s : State) : Host.Outcome State Fault Refusal :=
  onLatch s fun l => applyFlavour .wrapping w sg (muladdOutcome w sg f l)

/-- MULADD.S (43_muladd.md R190). -/
def execMuladdS (w : Width) (sg : Sign) (f : Frac) (s : State) : Host.Outcome State Fault Refusal :=
  onLatch s fun l => applyFlavour .saturating w sg (muladdOutcome w sg f l)

/-- MULADD.O (43_muladd.md R190). -/
def execMuladdO (w : Width) (sg : Sign) (f : Frac) (s : State) : Host.Outcome State Fault Refusal :=
  onLatch s fun l => applyFlavour .overflowing w sg (muladdOutcome w sg f l)

end Sys2Proof.Machine
end

