-- ==== Sys2Proof/Machine/Multiply.lean ====
section
/-! DEFINITION. The widening multiply MUL (41_multiply.md R150, R151). -/

namespace Sys2Proof.Machine

/-- MUL (41_multiply.md R150): the exact product, realigned by a right shift of f that rounds toward minus infinity
(R151). -/
def mulOutcome (w : Width) (sg : Sign) (f : Frac) (l : Latch) : ArithOutcome :=
  if fracLegal .mul w f then
    .ok (floorShift (val w sg l.opa * val w sg l.opb) (fracCount f))
  else .err .illegal

/-- MUL (41_multiply.md R150). -/
def execMul (w : Width) (sg : Sign) (f : Frac) (s : State) : Host.Outcome State Fault Refusal :=
  onLatch s fun l => applyFlavour .unchecked w sg (mulOutcome w sg f l)

/-- MUL.C (41_multiply.md R150). -/
def execMulC (w : Width) (sg : Sign) (f : Frac) (s : State) : Host.Outcome State Fault Refusal :=
  onLatch s fun l => applyFlavour .checked w sg (mulOutcome w sg f l)

/-- MUL.W (41_multiply.md R150). -/
def execMulW (w : Width) (sg : Sign) (f : Frac) (s : State) : Host.Outcome State Fault Refusal :=
  onLatch s fun l => applyFlavour .wrapping w sg (mulOutcome w sg f l)

/-- MUL.S (41_multiply.md R150). -/
def execMulS (w : Width) (sg : Sign) (f : Frac) (s : State) : Host.Outcome State Fault Refusal :=
  onLatch s fun l => applyFlavour .saturating w sg (mulOutcome w sg f l)

/-- MUL.O (41_multiply.md R150). -/
def execMulO (w : Width) (sg : Sign) (f : Frac) (s : State) : Host.Outcome State Fault Refusal :=
  onLatch s fun l => applyFlavour .overflowing w sg (mulOutcome w sg f l)

end Sys2Proof.Machine
end

