-- ==== Sys2Proof/Machine/Remainder.lean ====
section
/-! DEFINITION. The remainders REM, REMEU, REMI and REMEUI (42_divide_remainder.md R163 to R171). -/

namespace Sys2Proof.Machine

/-- rem_t(x, y), the truncating remainder: it has the sign of x or is zero (00_scope.md section 5.1). -/
def truncRem (x y : Int) : Int := x.tmod y

/-- The truncating remainder with the special case MIN % −1 = 0 (42_divide_remainder.md R163, R165). -/
def remValue (w : Width) (sg : Sign) (a b : Int) : Int :=
  if sg = .signed ∧ a = minVal w sg ∧ b = -1 then 0 else truncRem a b

/-- The Euclidean adjustment of a truncating remainder r by the magnitude d of the divisor (42_divide_remainder.md
R164, R168): r itself when it is not negative, else r + d, or EuOvf when that is not representable. -/
def euclideanOutcome (w : Width) (sg : Sign) (r d : Int) : ArithOutcome :=
  if 0 ≤ r then .ok r
  else if Representable w sg (r + d) then .ok (r + d)
  else .euOvf r (r + d)

/-- The remainder of a fixed-point value by an integer, remi(A, d) (42_divide_remainder.md R166): the dividend
unchanged when f = N or the realigned divisor is not representable. -/
def remiValue (w : Width) (sg : Sign) (f : Nat) (a d : Int) : Int :=
  if f = w.bits then a
  else if Representable w sg (exactShift d f) then remValue w sg a (exactShift d f)
  else a

/-- REM (42_divide_remainder.md R163). -/
def remOutcome (w : Width) (sg : Sign) (f : Frac) (l : Latch) : ArithOutcome :=
  if fracLegal .rem w f then
    if val w sg l.opb = 0 then .err .divzero
    else .ok (remValue w sg (val w sg l.opa) (val w sg l.opb))
  else .err .illegal

/-- REMEU (42_divide_remainder.md R164): |B| is exact, even for B = MIN. -/
def remeuOutcome (w : Width) (sg : Sign) (f : Frac) (l : Latch) : ArithOutcome :=
  if fracLegal .remeu w f then
    if val w sg l.opb = 0 then .err .divzero
    else euclideanOutcome w sg (remValue w sg (val w sg l.opa) (val w sg l.opb)) |val w sg l.opb|
  else .err .illegal

/-- REMI (42_divide_remainder.md R166): the divisor is an N-bit integer, checked for zero (R167). -/
def remiOutcome (w : Width) (sg : Sign) (f : Frac) (l : Latch) : ArithOutcome :=
  if fracLegal .remi w f then
    if val w sg l.opb = 0 then .err .divzero
    else .ok (remiValue w sg (fracCount f) (val w sg l.opa) (val w sg l.opb))
  else .err .illegal

/-- REMEUI (42_divide_remainder.md R168): the adjustment adds |d| · 2^f, exact on unbounded integers. -/
def remeuiOutcome (w : Width) (sg : Sign) (f : Frac) (l : Latch) : ArithOutcome :=
  if fracLegal .remeui w f then
    if val w sg l.opb = 0 then .err .divzero
    else
      euclideanOutcome w sg (remiValue w sg (fracCount f) (val w sg l.opa) (val w sg l.opb))
        (exactShift |val w sg l.opb| (fracCount f))
  else .err .illegal

/-- REM (42_divide_remainder.md R163). -/
def execRem (w : Width) (sg : Sign) (f : Frac) (s : State) : Host.Outcome State Fault Refusal :=
  onLatch s fun l => applyFlavour .unchecked w sg (remOutcome w sg f l)

/-- REM.C (42_divide_remainder.md R163). -/
def execRemC (w : Width) (sg : Sign) (f : Frac) (s : State) : Host.Outcome State Fault Refusal :=
  onLatch s fun l => applyFlavour .checked w sg (remOutcome w sg f l)

/-- REM.W (42_divide_remainder.md R163). -/
def execRemW (w : Width) (sg : Sign) (f : Frac) (s : State) : Host.Outcome State Fault Refusal :=
  onLatch s fun l => applyFlavour .wrapping w sg (remOutcome w sg f l)

/-- REM.S (42_divide_remainder.md R163). -/
def execRemS (w : Width) (sg : Sign) (f : Frac) (s : State) : Host.Outcome State Fault Refusal :=
  onLatch s fun l => applyFlavour .saturating w sg (remOutcome w sg f l)

/-- REM.O (42_divide_remainder.md R163). -/
def execRemO (w : Width) (sg : Sign) (f : Frac) (s : State) : Host.Outcome State Fault Refusal :=
  onLatch s fun l => applyFlavour .overflowing w sg (remOutcome w sg f l)

/-- REMEU (42_divide_remainder.md R164). -/
def execRemeu (w : Width) (sg : Sign) (f : Frac) (s : State) : Host.Outcome State Fault Refusal :=
  onLatch s fun l => applyFlavour .unchecked w sg (remeuOutcome w sg f l)

/-- REMEU.C (42_divide_remainder.md R164). -/
def execRemeuC (w : Width) (sg : Sign) (f : Frac) (s : State) : Host.Outcome State Fault Refusal :=
  onLatch s fun l => applyFlavour .checked w sg (remeuOutcome w sg f l)

/-- REMEU.W (42_divide_remainder.md R164). -/
def execRemeuW (w : Width) (sg : Sign) (f : Frac) (s : State) : Host.Outcome State Fault Refusal :=
  onLatch s fun l => applyFlavour .wrapping w sg (remeuOutcome w sg f l)

/-- REMEU.S (42_divide_remainder.md R164). -/
def execRemeuS (w : Width) (sg : Sign) (f : Frac) (s : State) : Host.Outcome State Fault Refusal :=
  onLatch s fun l => applyFlavour .saturating w sg (remeuOutcome w sg f l)

/-- REMEU.O (42_divide_remainder.md R164). -/
def execRemeuO (w : Width) (sg : Sign) (f : Frac) (s : State) : Host.Outcome State Fault Refusal :=
  onLatch s fun l => applyFlavour .overflowing w sg (remeuOutcome w sg f l)

/-- REMI (42_divide_remainder.md R166). -/
def execRemi (w : Width) (sg : Sign) (f : Frac) (s : State) : Host.Outcome State Fault Refusal :=
  onLatch s fun l => applyFlavour .unchecked w sg (remiOutcome w sg f l)

/-- REMI.C (42_divide_remainder.md R166). -/
def execRemiC (w : Width) (sg : Sign) (f : Frac) (s : State) : Host.Outcome State Fault Refusal :=
  onLatch s fun l => applyFlavour .checked w sg (remiOutcome w sg f l)

/-- REMI.W (42_divide_remainder.md R166). -/
def execRemiW (w : Width) (sg : Sign) (f : Frac) (s : State) : Host.Outcome State Fault Refusal :=
  onLatch s fun l => applyFlavour .wrapping w sg (remiOutcome w sg f l)

/-- REMI.S (42_divide_remainder.md R166). -/
def execRemiS (w : Width) (sg : Sign) (f : Frac) (s : State) : Host.Outcome State Fault Refusal :=
  onLatch s fun l => applyFlavour .saturating w sg (remiOutcome w sg f l)

/-- REMI.O (42_divide_remainder.md R166). -/
def execRemiO (w : Width) (sg : Sign) (f : Frac) (s : State) : Host.Outcome State Fault Refusal :=
  onLatch s fun l => applyFlavour .overflowing w sg (remiOutcome w sg f l)

/-- REMEUI (42_divide_remainder.md R168). -/
def execRemeui (w : Width) (sg : Sign) (f : Frac) (s : State) : Host.Outcome State Fault Refusal :=
  onLatch s fun l => applyFlavour .unchecked w sg (remeuiOutcome w sg f l)

/-- REMEUI.C (42_divide_remainder.md R168). -/
def execRemeuiC (w : Width) (sg : Sign) (f : Frac) (s : State) : Host.Outcome State Fault Refusal :=
  onLatch s fun l => applyFlavour .checked w sg (remeuiOutcome w sg f l)

/-- REMEUI.W (42_divide_remainder.md R168). -/
def execRemeuiW (w : Width) (sg : Sign) (f : Frac) (s : State) : Host.Outcome State Fault Refusal :=
  onLatch s fun l => applyFlavour .wrapping w sg (remeuiOutcome w sg f l)

/-- REMEUI.S (42_divide_remainder.md R168). -/
def execRemeuiS (w : Width) (sg : Sign) (f : Frac) (s : State) : Host.Outcome State Fault Refusal :=
  onLatch s fun l => applyFlavour .saturating w sg (remeuiOutcome w sg f l)

/-- REMEUI.O (42_divide_remainder.md R168). -/
def execRemeuiO (w : Width) (sg : Sign) (f : Frac) (s : State) : Host.Outcome State Fault Refusal :=
  onLatch s fun l => applyFlavour .overflowing w sg (remeuiOutcome w sg f l)

end Sys2Proof.Machine
end

