-- ==== Sys2Proof/Machine/Render.lean ====
section
/-! DEFINITION. The correctly-rounded radix renderer: RDEC, RBIN, ROCT, RHEXL and RHEXU (46_render.md R250 to R283). A
text is a list of ASCII bytes, first character first. -/

namespace Sys2Proof.Machine

/-! ## Radices and characters (46_render.md R251, R252) -/

/-- The radix and digit characters of each render command (46_render.md R251). -/
inductive Radix where
  | dec | bin | oct | hexLower | hexUpper
  deriving DecidableEq, Repr

/-- R of 46_render.md R251. -/
def radixBase : Radix → Nat
  | .dec => 10
  | .bin => 2
  | .oct => 8
  | .hexLower => 16
  | .hexUpper => 16

/-- The digit-bit count b of a power-of-two radix (46_render.md R251). -/
def digitBits : Radix → Option Nat
  | .dec => none
  | .bin => some 1
  | .oct => some 3
  | .hexLower => some 4
  | .hexUpper => some 4

/-- The byte `-` (46_render.md R252). -/
def chMinus : Byte := 0x2D#8
/-- The byte `+` (46_render.md R252). -/
def chPlus : Byte := 0x2B#8
/-- The byte `.` (46_render.md R252). -/
def chPoint : Byte := 0x2E#8
/-- The byte `0` (46_render.md R252). -/
def chZero : Byte := 0x30#8

/-- The alternate prefix (46_render.md R251): none for decimal, `0x` for both hexadecimal commands. -/
def radixPrefix : Radix → List Byte
  | .dec => []
  | .bin => [chZero, 0x62#8]
  | .oct => [chZero, 0x6F#8]
  | .hexLower => [chZero, 0x78#8]
  | .hexUpper => [chZero, 0x78#8]

/-- The byte of the digit ten: `a`, or `A` for RHEXU (46_render.md R251, R252). -/
def letterBase : Radix → Nat
  | .hexUpper => 0x41
  | _ => 0x61

/-- The character of a digit value (46_render.md R251, R252). -/
def digitChar (r : Radix) (d : Nat) : Byte :=
  BitVec.ofNat 8 (if d < 10 then 0x30 + d else letterBase r + (d - 10))

/-! ## Digits (46_render.md R253 to R261) -/

/-- neg of 46_render.md R250: the value is signed and negative. -/
def renderNeg (w : Width) (sg : Sign) (opa : Word128) : Bool := decide (val w sg opa < 0)

/-- mag of 46_render.md R250. -/
def renderMag (w : Width) (sg : Sign) (opa : Word128) : Nat := (val w sg opa).natAbs

/-- The criterion of 46_render.md R258: the nearer of the two k-digit decimals that bracket F · 2^−f lies strictly
within half a unit of the input's last place. -/
def autoStop (fr f k : Nat) : Bool :=
  let e := fr * 10 ^ k % 2 ^ f
  decide (2 * min e (2 ^ f - e) < 10 ^ k)

/-- The least digit count from `k` on that meets the criterion, looking at most `fuel` counts further. -/
def autoSearch (fr f : Nat) : Nat → Nat → Nat
  | 0, k => k
  | fuel + 1, k => if autoStop fr f k then k else autoSearch fr f fuel (k + 1)

/-- nat(F, f, 10), the automatic decimal digit count (46_render.md R258). The count f always meets the criterion. -/
def autoDecimalDigits (fr f : Nat) : Nat := autoSearch fr f f 0

/-- The fractional digit count k, fixed before any digit is formed (46_render.md R254): PREC when PREC_EN = 1 (R256),
else the natural count (R257, R258). -/
def fracDigitCount (r : Radix) (f mag : Nat) (rcfg : Word32) : Nat :=
  if rcfgPrecEn rcfg then rcfgPrec rcfg
  else
    match digitBits r with
    | none => autoDecimalDigits (mag % 2 ^ f) f
    | some b => (f + b - 1) / b

/-- num / 2^f rounded half to even (46_render.md R255). -/
def roundHalfEven (num f : Nat) : Nat :=
  let t := num / 2 ^ f
  let e := num % 2 ^ f
  if 2 * e > 2 ^ f ∨ (2 * e = 2 ^ f ∧ t % 2 = 1) then t + 1 else t

/-- The digits of `u` in base `b`, most significant first, no leading zero, put before `acc`; `fuel` bounds their
number. -/
def digitsInto (b : Nat) : Nat → Nat → List Nat → List Nat
  | 0, _, acc => acc
  | fuel + 1, u, acc => if u = 0 then acc else digitsInto b fuel (u / b) (u % b :: acc)

/-- base_R(U): the digits of U, most significant first, with no leading zeros (46_render.md R261). A number has no
more digits in any base than bits. -/
def digitsOf (b u : Nat) : List Nat := digitsInto b (u.log2 + 1) u []

/-- Left-padding with zero digits to at least `n` digits (46_render.md R261). -/
def padDigits (n : Nat) (ds : List Nat) : List Nat := List.replicate (n - ds.length) 0 ++ ds

/-- The digits without the trailing zeros (46_render.md R260). -/
def trimZeros (ds : List Nat) : List Nat := (ds.reverse.dropWhile (· == 0)).reverse

/-- The digits of the rounded value, padded to k + 1 (46_render.md R255, R261). -/
def roundedDigits (r : Radix) (f mag k : Nat) : List Nat :=
  padDigits (k + 1) (digitsOf (radixBase r) (roundHalfEven (mag * radixBase r ^ k) f))

/-- The digit body: the integer digits, and the point and the fractional digits if any remain (46_render.md R260,
R261). -/
def digitBody (r : Radix) (k : Nat) (trim : Bool) (ds : List Nat) : List Byte :=
  let ip := ds.take (ds.length - k)
  let fp := ds.drop (ds.length - k)
  let fp := if trim then trimZeros fp else fp
  ip.map (digitChar r) ++ (if fp = [] then [] else chPoint :: fp.map (digitChar r))

/-! ## Sign, prefix and padding (46_render.md R262 to R271) -/

/-- The sign (46_render.md R262). -/
def signText (neg : Bool) (rcfg : Word32) : List Byte :=
  if neg then [chMinus] else if rcfgPlus rcfg then [chPlus] else []

/-- The prefix (46_render.md R263). -/
def prefixText (r : Radix) (rcfg : Word32) : List Byte :=
  if rcfgAlt rcfg then radixPrefix r else []

/-- `n` copies of the fill byte (46_render.md R271). -/
def fillText (rcfg : Word32) (n : Nat) : List Byte := List.replicate n (rcfgFill rcfg)

/-- The text: sign, prefix and body, padded to WIDTH (46_render.md R264 to R268). -/
def padText (rcfg : Word32) (sign pre body : List Byte) : List Byte :=
  let c := sign ++ pre ++ body
  let pad := rcfgWidth rcfg - c.length
  if rcfgZpad rcfg then sign ++ pre ++ List.replicate pad chZero ++ body
  else
    match rcfgAlign rcfg with
    | .left => c ++ fillText rcfg pad
    | .right => fillText rcfg pad ++ c
    | .unspecified => fillText rcfg pad ++ c
    | .center => fillText rcfg (pad / 2) ++ c ++ fillText rcfg (pad - pad / 2)

/-! ## The function and the commands (46_render.md R272, R274) -/

/-- The body of a render command's text (46_render.md R272). -/
def renderBody (r : Radix) (w : Width) (sg : Sign) (f : Nat) (opa : Word128) (rcfg : Word32) : List Byte :=
  let mag := renderMag w sg opa
  let k := fracDigitCount r f mag rcfg
  digitBody r k (!rcfgPrecEn rcfg) (roundedDigits r f mag k)

/-- Render(L) (46_render.md R272). -/
def render (r : Radix) (w : Width) (sg : Sign) (f : Nat) (opa : Word128) (rcfg : Word32) : List Byte :=
  padText rcfg (signText (renderNeg w sg opa) rcfg) (prefixText r rcfg) (renderBody r w sg f opa rcfg)

/-- Completion of a render command (46_render.md R274): the text, OV = 0, ABSENT = 0, ERR = 0; ILLEGAL alone can fail
it, and then TXT and TXTLEN are not written. -/
def renderCompletion (op : Op) (r : Radix) (w : Width) (sg : Sign) (f : Frac) (l : Latch) : Completion :=
  if fracLegal op w f then { text := some (render r w sg (fracCount f) l.opa l.rcfg) }
  else raiseError .illegal

/-- RDEC (46_render.md R275). -/
def execRdec (w : Width) (sg : Sign) (f : Frac) (s : State) : Host.Outcome State Fault Refusal :=
  onLatch s fun l => renderCompletion .rdec .dec w sg f l

/-- RBIN (46_render.md R276). -/
def execRbin (w : Width) (sg : Sign) (f : Frac) (s : State) : Host.Outcome State Fault Refusal :=
  onLatch s fun l => renderCompletion .rbin .bin w sg f l

/-- ROCT (46_render.md R277). -/
def execRoct (w : Width) (sg : Sign) (f : Frac) (s : State) : Host.Outcome State Fault Refusal :=
  onLatch s fun l => renderCompletion .roct .oct w sg f l

/-- RHEXL (46_render.md R278). -/
def execRhexl (w : Width) (sg : Sign) (f : Frac) (s : State) : Host.Outcome State Fault Refusal :=
  onLatch s fun l => renderCompletion .rhexl .hexLower w sg f l

/-- RHEXU (46_render.md R279). -/
def execRhexu (w : Width) (sg : Sign) (f : Frac) (s : State) : Host.Outcome State Fault Refusal :=
  onLatch s fun l => renderCompletion .rhexu .hexUpper w sg f l

end Sys2Proof.Machine
end

