-- ==== Sys2Proof/Machine/Sqrt.lean ====
section
/-! DEFINITION. The integer square root SQRT (45_sqrt.md R230 to R238), with the spec's reference digit-by-digit
algorithm (R233). -/

namespace Sys2Proof.Machine

/-- The root bits below bit `n`, decided one at a time from the most significant down: bit `n − 1` is set when the
root with it set still has a square of at most `x`. -/
def rootBits (x : Nat) : Nat → Nat → Nat
  | 0, r => r
  | n + 1, r => if (r + 2 ^ n) * (r + 2 ^ n) ≤ x then rootBits x n (r + 2 ^ n) else rootBits x n r

/-- isqrt(x), the largest r with r · r ≤ x (00_scope.md section 5.1, 45_sqrt.md R231): a number of n bits has a root
of at most n bits. -/
def isqrt (x : Nat) : Nat := rootBits x (x.log2 + 1) 0

/-- The loop of the reference algorithm (45_sqrt.md R233) once `bit` is found, with the remainder x, the root so far
and `bit` = 4^n. -/
def digitLoop : Nat → Nat → Nat → Nat
  | 0, x, root => if root + 1 ≤ x then root / 2 + 1 else root / 2
  | n + 1, x, root =>
    if root + 4 ^ (n + 1) ≤ x then digitLoop n (x - (root + 4 ^ (n + 1))) (root / 2 + 4 ^ (n + 1))
    else digitLoop n x (root / 2)

/-- The reference digit-by-digit algorithm (45_sqrt.md R233): the highest power of 4 not above x is 4^(log2 x / 2); for
x = 0 the loop starts at bit = 1. -/
def digitByDigitRoot (x : Nat) : Nat := digitLoop (x.log2 / 2) x 0

/-- SQRT (45_sqrt.md R235): zero first, then the domain check of a signed operand, then isqrt(A · 2^f). -/
def sqrtOutcome (w : Width) (sg : Sign) (f : Frac) (l : Latch) : SqrtOutcome :=
  if fracLegal .sqrt w f then
    if val w sg l.opa = 0 then .ok 0
    else if sg = .signed ∧ val w sg l.opa < 0 then .domain
    else .ok (isqrt (exactShift (val w sg l.opa) (fracCount f)).toNat)
  else .err .illegal

/-- SQRT (45_sqrt.md R235, R236). -/
def execSqrt (w : Width) (sg : Sign) (f : Frac) (s : State) : Host.Outcome State Fault Refusal :=
  onLatch s fun l => sqrtUnchecked w sg (sqrtOutcome w sg f l)

/-- SQRT.C (45_sqrt.md R235, R236). -/
def execSqrtC (w : Width) (sg : Sign) (f : Frac) (s : State) : Host.Outcome State Fault Refusal :=
  onLatch s fun l => sqrtChecked w sg (sqrtOutcome w sg f l)

end Sys2Proof.Machine
end

