-- ==== Sys2Proof/Machine/Dispatch.lean ====
section
/-! DEFINITION. The dispatch: one arm per command, each a call of the command's own meaning. A meaning is the
completion step of the command in flight (10_state.md R41). notes/assumptions/1.md. -/

namespace Sys2Proof.Machine

def exec (i : Instr) (s : State) : Host.Outcome State Fault Refusal :=
  match i with
  | .mul w sg f => Sys2Proof.Machine.execMul w sg f s
  | .mulC w sg f => Sys2Proof.Machine.execMulC w sg f s
  | .mulW w sg f => Sys2Proof.Machine.execMulW w sg f s
  | .mulS w sg f => Sys2Proof.Machine.execMulS w sg f s
  | .mulO w sg f => Sys2Proof.Machine.execMulO w sg f s
  | .div w sg f => Sys2Proof.Machine.execDiv w sg f s
  | .divC w sg f => Sys2Proof.Machine.execDivC w sg f s
  | .divW w sg f => Sys2Proof.Machine.execDivW w sg f s
  | .divS w sg f => Sys2Proof.Machine.execDivS w sg f s
  | .divO w sg f => Sys2Proof.Machine.execDivO w sg f s
  | .muladd w sg f => Sys2Proof.Machine.execMuladd w sg f s
  | .muladdC w sg f => Sys2Proof.Machine.execMuladdC w sg f s
  | .muladdW w sg f => Sys2Proof.Machine.execMuladdW w sg f s
  | .muladdS w sg f => Sys2Proof.Machine.execMuladdS w sg f s
  | .muladdO w sg f => Sys2Proof.Machine.execMuladdO w sg f s
  | .rem w sg f => Sys2Proof.Machine.execRem w sg f s
  | .remC w sg f => Sys2Proof.Machine.execRemC w sg f s
  | .remW w sg f => Sys2Proof.Machine.execRemW w sg f s
  | .remS w sg f => Sys2Proof.Machine.execRemS w sg f s
  | .remO w sg f => Sys2Proof.Machine.execRemO w sg f s
  | .remeu w sg f => Sys2Proof.Machine.execRemeu w sg f s
  | .remeuC w sg f => Sys2Proof.Machine.execRemeuC w sg f s
  | .remeuW w sg f => Sys2Proof.Machine.execRemeuW w sg f s
  | .remeuS w sg f => Sys2Proof.Machine.execRemeuS w sg f s
  | .remeuO w sg f => Sys2Proof.Machine.execRemeuO w sg f s
  | .remi w sg f => Sys2Proof.Machine.execRemi w sg f s
  | .remiC w sg f => Sys2Proof.Machine.execRemiC w sg f s
  | .remiW w sg f => Sys2Proof.Machine.execRemiW w sg f s
  | .remiS w sg f => Sys2Proof.Machine.execRemiS w sg f s
  | .remiO w sg f => Sys2Proof.Machine.execRemiO w sg f s
  | .remeui w sg f => Sys2Proof.Machine.execRemeui w sg f s
  | .remeuiC w sg f => Sys2Proof.Machine.execRemeuiC w sg f s
  | .remeuiW w sg f => Sys2Proof.Machine.execRemeuiW w sg f s
  | .remeuiS w sg f => Sys2Proof.Machine.execRemeuiS w sg f s
  | .remeuiO w sg f => Sys2Proof.Machine.execRemeuiO w sg f s
  | .sqrt w sg f => Sys2Proof.Machine.execSqrt w sg f s
  | .sqrtC w sg f => Sys2Proof.Machine.execSqrtC w sg f s
  | .rdec w sg f => Sys2Proof.Machine.execRdec w sg f s
  | .rbin w sg f => Sys2Proof.Machine.execRbin w sg f s
  | .roct w sg f => Sys2Proof.Machine.execRoct w sg f s
  | .rhexl w sg f => Sys2Proof.Machine.execRhexl w sg f s
  | .rhexu w sg f => Sys2Proof.Machine.execRhexu w sg f s

end Sys2Proof.Machine
end

