-- ==== Sys2Proof/Machine/Step.lean ====
section
/-! DEFINITION. One step of the machine: the completion step of the command in flight when it is due, else the host's
next action (20_memory.md R72, 70_reset_and_hazards.md R345). -/

namespace Sys2Proof.Machine

/-- The completion step of a latched command (10_state.md R41): by the rule of the command's opcode, or ILLEGAL
(30_encoding.md R101). -/
def completionStep (l : Latch) (s : State) : Host.Outcome State Fault Refusal :=
  match decode l.cmd with
  | .ok i => exec i s
  | .error _ => completeIllegal s

/-- One step. -/
def step (s : State) : Host.Outcome State Fault Refusal :=
  match completionDue s with
  | some l => completionStep l s
  | none => hostStep (passStep s)

/-- The state whose next step runs the command word `w`: the word is accepted with the registers as they stand
(10_state.md R40) and its latency has run out (70_reset_and_hazards.md R345). notes/assumptions/1.md. -/
def State.withFetchWord (s : State) (nbits w : Nat) : State :=
  { latchCommand (BitVec.ofNat 32 (w % 2 ^ nbits)) s with countdown := 0 }

end Sys2Proof.Machine
end

