-- ==== Sys2Proof/Machine/HostProgram.lean ====
section
/-! DEFINITION. The host program forms of 30_encoding.md R106 and R107: accesses by register name, a command, and the
pseudo-instructions with their expansions, each as the host actions it stands for. -/

namespace Sys2Proof.Machine

/-- The register names of the register map (20_memory.md R64). -/
inductive RegName where
  | opa | opb | opc | cmd | rcfg | status | txtlen | res | txt
  deriving DecidableEq, Repr

/-- The offset a register name stands for (20_memory.md R64, 30_encoding.md R106). -/
def regOffset : RegName → Nat
  | .opa => 0x000
  | .opb => 0x010
  | .opc => 0x020
  | .cmd => 0x030
  | .rcfg => 0x034
  | .status => 0x038
  | .txtlen => 0x03C
  | .res => 0x040
  | .txt => 0x100

/-- `WR R.k, v`: a register name with a word index (30_encoding.md R106). -/
def hostWr (r : RegName) (k : Nat) (v : Word32) : HostOp := .wr 4 (regOffset r + 4 * k) v

/-- `RD R.k` (30_encoding.md R106). -/
def hostRd (r : RegName) (k : Nat) : HostOp := .rd 4 (regOffset r + 4 * k)

/-- A command line: WR CMD, the command word (30_encoding.md R106). -/
def hostCommand (i : Instr) : HostOp := hostWr .cmd 0 (encode i)

/-- `WR128 R, v` (30_encoding.md R107). -/
def hostWr128 (r : RegName) (v : Word128) : List HostOp :=
  [hostWr r 0 (wordOf v 0), hostWr r 1 (wordOf v 1), hostWr r 2 (wordOf v 2), hostWr r 3 (wordOf v 3)]

/-- `RD128 R` (30_encoding.md R107). -/
def hostRd128 (r : RegName) : List HostOp := [hostRd r 0, hostRd r 1, hostRd r 2, hostRd r 3]

/-- `CLRLOST` (30_encoding.md R107). -/
def hostClrLost : HostOp := hostWr .status 0 0x00000100#32

/-- The fields of the `RCFG` pseudo-instruction, unnamed fields at their reset values (30_encoding.md R107,
10_state.md R26). -/
structure RcfgFields where
  prec  : Option Byte := none
  width : Byte := 0#8
  align : BitVec 2 := 0#2
  zpad  : Bool := false
  alt   : Bool := false
  plus  : Bool := false
  fill  : Byte := 0x20#8
  deriving DecidableEq, Repr

/-- The RCFG word of the named fields (10_state.md R26). -/
def rcfgWordOf (c : RcfgFields) : Word32 :=
  (BitVec.ofBool c.prec.isSome).setWidth 32 ||| (c.prec.getD 0#8).setWidth 32 <<< 1 ||| c.width.setWidth 32 <<< 9
    ||| c.align.setWidth 32 <<< 17 ||| (BitVec.ofBool c.zpad).setWidth 32 <<< 19
    ||| (BitVec.ofBool c.alt).setWidth 32 <<< 20 ||| (BitVec.ofBool c.plus).setWidth 32 <<< 21
    ||| c.fill.setWidth 32 <<< 22

/-- `RCFG <fields>` (30_encoding.md R107). -/
def hostRcfg (c : RcfgFields) : HostOp := hostWr .rcfg 0 (rcfgWordOf c)

/-- A read at a bus address, where FXCORE decodes it (20_memory.md R61, R62). -/
def busRead (addr : Nat) : Option HostOp := (windowOffset addr).map fun off => .rd 4 off

/-- A write at a bus address, where FXCORE decodes it (20_memory.md R61, R62). -/
def busWrite (addr : Nat) (v : Word32) : Option HostOp := (windowOffset addr).map fun off => .wr 4 off v

/-- The host actions join the end of the queue (20_memory.md R72). -/
def submit (s : State) (ops : List HostOp) : State := { s with hostQueue := s.hostQueue ++ ops }

end Sys2Proof.Machine
end

