-- ==== Sys2Proof/Machine/WidenedTier.lean ====
section
/-! DEFINITION. The widened tier of MUL, DIV and MULADD: computation in an integer of double the operand width, as
the source does for N ≤ 64 (41_multiply.md R152, R154; 42_divide_remainder.md R160; 43_muladd.md R192, R193). The
meanings compute the exact rules; that the tier computes the same is stated as an obligation. Which tier runs is not
observable (40_arith_common.md R133). notes/assumptions/11.md. -/

namespace Sys2Proof.Machine

/-- What a tier leaves: the result pattern and the overflow indicator (40_arith_common.md R133). -/
structure TierResult (n : Nat) where
  pattern  : BitVec n
  overflow : Bool
  deriving DecidableEq, Repr

/-- A pattern extended to `m` bits by its signedness. -/
def extendTo {n : Nat} (m : Nat) (sg : Sign) (p : BitVec n) : BitVec m :=
  match sg with
  | .unsigned => p.setWidth m
  | .signed => p.signExtend m

/-- The right shift of a pattern: arithmetic for S signed, logical for S unsigned. -/
def shiftPattern {m : Nat} (sg : Sign) (q : BitVec m) (k : Nat) : BitVec m :=
  match sg with
  | .unsigned => q >>> k
  | .signed => q.sshiftRight k

/-- The overflow test on a wide pattern (40_arith_common.md R132, 41_multiply.md R152): the bits above the low `n` are
not all zero (unsigned), or not all copies of bit n − 1 (signed). -/
def highBitsTest {m : Nat} (sg : Sign) (n : Nat) (q : BitVec m) : Bool :=
  let high := q.extractLsb' n (m - n)
  match sg with
  | .unsigned => decide (high ≠ 0)
  | .signed => decide (high ≠ if q.getLsbD (n - 1) then BitVec.allOnes (m - n) else 0)

/-- MUL in 2N bits (41_multiply.md R152). -/
def widenedMul (n : Nat) (sg : Sign) (f : Nat) (a b : BitVec n) : TierResult n :=
  let p := extendTo (2 * n) sg a * extendTo (2 * n) sg b
  let q := shiftPattern sg p f
  { pattern := q.setWidth n, overflow := highBitsTest sg n q }

/-- DIV in 2N bits (42_divide_remainder.md R160: "conceptually shift `lhs` left by `frac` into a double-width
dividend, divide by `rhs` widened to the same width"). -/
def widenedDiv (n : Nat) (sg : Sign) (f : Nat) (a b : BitVec n) : TierResult n :=
  let d := extendTo (2 * n) sg a <<< f
  let e := extendTo (2 * n) sg b
  let q :=
    match sg with
    | .unsigned => d / e
    | .signed => d.sdiv e
  { pattern := q.setWidth n, overflow := highBitsTest sg n q }

/-- The product after the frac normalisation (43_muladd.md R192), the normalised shift count, and the first overflow
check: whether a left pre-shift loses bits that are not sign or zero extension. -/
structure Normalised (m : Nat) where
  product : BitVec m
  shift   : Nat
  lost    : Bool
  deriving DecidableEq, Repr

/-- 43_muladd.md R192: the frac normalisation of a 2N-bit product. -/
def normaliseFrac (n : Nat) (sg : Sign) (f : Int) (p : BitVec (2 * n)) : Normalised (2 * n) :=
  if (n : Int) < f then { product := shiftPattern sg p n, shift := (f - n).toNat, lost := false }
  else if 0 ≤ f then { product := p, shift := f.toNat, lost := false }
  else { product := p <<< n, shift := (f + n).toNat, lost := highBitsTest sg n p }

/-- The second overflow check (43_muladd.md R193, 44_limb_engine.md R206): the carry out of the addition (unsigned), or
its signed overflow. -/
def addOverflow {m : Nat} (sg : Sign) (x y : BitVec m) : Bool :=
  match sg with
  | .unsigned => decide (2 ^ m ≤ x.toNat + y.toNat)
  | .signed => (x.msb == y.msb) && ((x + y).msb != x.msb)

/-- MULADD in 2N bits (43_muladd.md R192, R193): the overflow is the union of the three checks. -/
def widenedMulAdd (n : Nat) (sg : Sign) (f : Int) (a b c : BitVec n) : TierResult n :=
  let p := extendTo (2 * n) sg a * extendTo (2 * n) sg b
  let z := normaliseFrac n sg f p
  let addend := extendTo (2 * n) sg c <<< z.shift
  let q := shiftPattern sg (z.product + addend) z.shift
  { pattern := q.setWidth n, overflow := z.lost || addOverflow sg z.product addend || highBitsTest sg n q }

end Sys2Proof.Machine
end

