-- ==== Sys2Proof/Machine/LimbEngine.lean ====
section
/-! DEFINITION. The 128-bit dual-limb carry-propagation engine (44_limb_engine.md R200 to R216): MUL, DIV and MULADD
at N = 128 by 64-bit limbs and explicit carries. The meanings compute the exact rules; that the engine computes the
same (R200, R208) is stated as an obligation. notes/assumptions/11.md. -/

namespace Sys2Proof.Machine

/-- One more than the greatest 64-bit limb. -/
def limbBase : Nat := 2 ^ 64

/-- Limb `i` of a 128-bit pattern, read unsigned (44_limb_engine.md R201). -/
def limbOf128 (p : Word128) (i : Nat) : Nat := (p.extractLsb' (64 * i) 64).toNat

/-- Limb `i` of a 256-bit quantity, read unsigned (44_limb_engine.md R201). -/
def limbOf256 (q : Word256) (i : Nat) : Nat := (q.extractLsb' (64 * i) 64).toNat

/-- The 256-bit quantity of four limbs, w3 most significant (44_limb_engine.md R201). -/
def fromLimbs (w3 w2 w1 w0 : Nat) : Word256 :=
  BitVec.ofNat 256 (((w3 * limbBase + w2) * limbBase + w1) * limbBase + w0)

/-! ## Multiply -/

/-- The 4-limb product of two unsigned patterns from the four partial products, with explicit carry propagation
(44_limb_engine.md R202). -/
def limbProduct (a b : Word128) : Word256 :=
  let p00 := limbOf128 a 0 * limbOf128 b 0
  let p01 := limbOf128 a 0 * limbOf128 b 1
  let p10 := limbOf128 a 1 * limbOf128 b 0
  let p11 := limbOf128 a 1 * limbOf128 b 1
  let w0 := p00 % limbBase
  let t1 := p00 / limbBase + p01 % limbBase + p10 % limbBase
  let w1 := t1 % limbBase
  let c1 := t1 / limbBase
  let t2 := p11 % limbBase + p01 / limbBase + p10 / limbBase + c1
  let w2 := t2 % limbBase
  let c2 := t2 / limbBase
  let w3 := p11 / limbBase + c2
  fromLimbs w3 w2 w1 w0

/-- The product corrected for the signs when S is signed (44_limb_engine.md R203). -/
def signedLimbProduct (sg : Sign) (a b : Word128) : Word256 :=
  match sg with
  | .unsigned => limbProduct a b
  | .signed =>
    limbProduct a b - (if a.msb then b.setWidth 256 <<< 128 else 0) - (if b.msb then a.setWidth 256 <<< 128 else 0)

/-- Limb `i` of a quantity extended by its sign (signed) or by zero beyond its four limbs. -/
def extendedLimb (sg : Sign) (q : Word256) (i : Nat) : Nat :=
  if i < 4 then limbOf256 q i
  else
    match sg with
    | .unsigned => 0
    | .signed => if q.msb then limbBase - 1 else 0

/-- Limb `i` after a right shift by `k`: whole limbs for the multiple-of-64 part of k, and a shift within two
neighbouring limbs for the rest (44_limb_engine.md R204). No native shift by the full width is used. -/
def shiftedLimb (sg : Sign) (q : Word256) (k i : Nat) : Nat :=
  (extendedLimb sg q (i + k / 64 + 1) * limbBase + extendedLimb sg q (i + k / 64)) / 2 ^ (k % 64) % limbBase

/-- The realignment across limbs (44_limb_engine.md R204): P >> k, arithmetic for S signed. -/
def limbShiftRight (sg : Sign) (q : Word256) (k : Nat) : Word256 :=
  fromLimbs (shiftedLimb sg q k 3) (shiftedLimb sg q k 2) (shiftedLimb sg q k 1) (shiftedLimb sg q k 0)

/-- MUL at N = 128 (44_limb_engine.md R202 to R204). -/
def limbMul (sg : Sign) (f : Nat) (a b : Word128) : TierResult 128 :=
  let q := limbShiftRight sg (signedLimbProduct sg a b) f
  { pattern := q.setWidth 128, overflow := highBitsTest sg 128 q }

/-! ## Multiply-add -/

/-- The normalisation of f into [0, 128] (44_limb_engine.md R205). -/
def limbNormalise (sg : Sign) (f : Int) (p : Word256) : Normalised 256 :=
  if 128 < f then { product := limbShiftRight sg p 128, shift := (f - 128).toNat, lost := false }
  else if 0 ≤ f then { product := p, shift := f.toNat, lost := false }
  else { product := (p.setWidth 128).setWidth 256 <<< 128, shift := (f + 128).toNat, lost := highBitsTest sg 128 p }

/-- The 256-bit sum formed limb by limb with carry (44_limb_engine.md R206). -/
def limbAdd (x y : Word256) : Word256 :=
  let s0 := limbOf256 x 0 + limbOf256 y 0
  let s1 := limbOf256 x 1 + limbOf256 y 1 + s0 / limbBase
  let s2 := limbOf256 x 2 + limbOf256 y 2 + s1 / limbBase
  let s3 := limbOf256 x 3 + limbOf256 y 3 + s2 / limbBase
  fromLimbs (s3 % limbBase) (s2 % limbBase) (s1 % limbBase) (s0 % limbBase)

/-- MULADD at N = 128 (44_limb_engine.md R205 to R207): V is the OR of the three checks. -/
def limbMulAdd (sg : Sign) (f : Int) (a b c : Word128) : TierResult 128 :=
  let z := limbNormalise sg f (signedLimbProduct sg a b)
  let addend := extendTo 256 sg c <<< z.shift
  let sum := limbAdd z.product addend
  let q := limbShiftRight sg sum z.shift
  { pattern := q.setWidth 128, overflow := z.lost || addOverflow sg z.product addend || highBitsTest sg 128 q }

/-! ## Divide -/

/-- |A| as a 128-bit unsigned word (44_limb_engine.md R210). -/
def limbMagnitude (sg : Sign) (a : Word128) : Word128 :=
  match sg with
  | .unsigned => a
  | .signed => if a.msb then -a else a

/-- The double-width dividend mA · 2^f as two 128-bit words (44_limb_engine.md R211). -/
def dividendWords (f : Nat) (ma : Word128) : Word128 × Word128 :=
  if f = 0 then (0#128, ma)
  else if f = 128 then (ma, 0#128)
  else (ma >>> (128 - f), ma <<< f)

/-- The wide-division primitive (44_limb_engine.md R214): the 256-bit quotient and the 128-bit remainder of
h · 2^128 + l by d. -/
def wideDivide (h l d : Word128) : Word256 × Word128 :=
  let n := h.toNat * 2 ^ 128 + l.toNat
  (BitVec.ofNat 256 (n / d.toNat), BitVec.ofNat 128 (n % d.toNat))

/-- DIV at N = 128 (44_limb_engine.md R210 to R213), for a divisor that is not zero. -/
def limbDiv (sg : Sign) (f : Nat) (a b : Word128) : TierResult 128 :=
  let d := dividendWords f (limbMagnitude sg a)
  let q := (wideDivide d.1 d.2 (limbMagnitude sg b)).1
  let qh : Word128 := q.extractLsb' 128 128
  let ql : Word128 := q.extractLsb' 0 128
  match sg with
  | .unsigned => { pattern := ql, overflow := decide (qh ≠ 0#128) }
  | .signed =>
    if a.msb != b.msb then
      { pattern := -ql, overflow := decide (qh ≠ 0#128) || decide (2 ^ 127 < ql.toNat) }
    else
      { pattern := ql, overflow := decide (qh ≠ 0#128) || decide (2 ^ 127 - 1 < ql.toNat) }

end Sys2Proof.Machine
end

