-- ==== Sys2Proof/Safety.lean ====
section
/-! DEFINITION. The terms the statements use: the invariant of FXCORE's state, the four forms a completion takes, the
rows of the flavour table, which operands a command reads, and the accesses the interface has. -/

namespace Sys2Proof.Machine

/-! ## The invariant -/

/-- What holds of every state from reset on: TXT is in canonical form and ends at TXTLEN (10_state.md R35), which is
at most 387 (46_render.md R273); the reserved bits of RCFG are 0 (10_state.md R26); a command in flight is the one
CMD shows, with DONE, OV, ABSENT and ERR clear (R40, R43); and OV, ABSENT and ERR agree (60_exceptions.md R302,
R303). -/
structure Inv (s : State) : Prop where
  textCanonical : s.txt.wf = true
  textFits : s.txtlen.toNat ≤ 387
  textEnds : ∀ k, s.txtlen.toNat ≤ k → s.txt.read k = 0#8
  rcfgReserved : s.rcfg &&& rcfgMask = s.rcfg
  inFlight : ∀ l, s.inflight = some l → l.cmd = s.cmd ∧ l.rcfg &&& rcfgMask = l.rcfg ∧ s.done = false
  notDone : s.done = false → s.ov = false ∧ s.absent = false ∧ s.err = .none
  overflowSets : s.err = .overflow → s.ov = true
  otherErrorClears : s.err ≠ .none → s.err ≠ .overflow → s.ov = false
  absentIsNoError : s.absent = true → s.err = .none

/-! ## The forms of a completion -/

/-- Completion with a result (40_arith_common.md R136): RES, OV, and ABSENT = 0, ERR = 0; nothing else changes but DONE
and INFLIGHT (10_state.md R41). -/
def afterResult (s : State) (r : Word128) (v : Bool) : State :=
  { s with res := r, ov := v, absent := false, err := .none, done := true, inflight := none }

/-- Completion with an error code (60_exceptions.md R302): only STATUS is written, and INFLIGHT. -/
def afterError (s : State) (e : ErrCode) (v : Bool) : State :=
  { s with ov := v, absent := false, err := e, done := true, inflight := none }

/-- Completion with an absent result (10_state.md R32): only STATUS is written, and INFLIGHT. -/
def afterAbsent (s : State) (v : Bool) : State :=
  { s with ov := v, absent := true, err := .none, done := true, inflight := none }

/-- Every command of the list completes with the result x, OV = 0. -/
def AllWrite (w : Width) (sg : Sign) (s : State) (x : Int) (is : List Instr) : Prop :=
  ∀ i ∈ is, exec i s = .next (afterResult s (resultPattern w sg x) false)

/-- The rows of 40_arith_common.md R136 for an exact result x, with the commands of the five flavours in the order
UNCHECKED, CHECKED, WRAPPING, SATURATING, OVERFLOWING. -/
def FlavourRows (w : Width) (sg : Sign) (s : State) (x : Int) (iu ic iw isat io : Instr) : Prop :=
  (Representable w sg x → AllWrite w sg s x [iu, ic, iw, isat, io])
    ∧ (¬ Representable w sg x →
        exec iu s = .next (afterError s .overflow true)
          ∧ exec ic s = .next (afterAbsent s true)
          ∧ exec iw s = .next (afterResult s (resultPattern w sg x) true)
          ∧ (maxVal w sg < x → exec isat s = .next (afterResult s (resultPattern w sg (maxVal w sg)) true))
          ∧ (x < minVal w sg → exec isat s = .next (afterResult s (resultPattern w sg (minVal w sg)) true))
          ∧ exec io s = .next (afterResult s (resultPattern w sg x) true))

/-- r is the truncating remainder of a by b: a = q · b + r for an integer q, |r| < |b|, and r has the sign of a or is
zero (00_scope.md section 5.1). -/
def IsTruncRem (a b r : Int) : Prop := (∃ q, a = q * b + r) ∧ |r| < |b| ∧ 0 ≤ r * a

/-- r is the Euclidean remainder of a by b: a = q · b + r for an integer q, and 0 ≤ r < |b|. -/
def IsEuclidRem (a b r : Int) : Prop := (∃ q, a = q * b + r) ∧ 0 ≤ r ∧ r < |b|

/-! ## What a command reads (30_encoding.md R99) -/

/-- Whether an operation reads L.OPB (30_encoding.md R99). -/
def readsOpb : Op → Bool
  | .mul | .div | .muladd | .rem | .remeu | .remi | .remeui => true
  | .sqrt | .rdec | .rbin | .roct | .rhexl | .rhexu => false

/-- Whether an operation reads L.OPC (30_encoding.md R99). -/
def readsOpc : Op → Bool
  | .muladd => true
  | .mul | .div | .rem | .remeu | .remi | .remeui | .sqrt | .rdec | .rbin | .roct | .rhexl | .rhexu => false

/-- Whether an operation reads L.RCFG (30_encoding.md R99). -/
def readsRcfg : Op → Bool
  | .rdec | .rbin | .roct | .rhexl | .rhexu => true
  | .mul | .div | .muladd | .rem | .remeu | .remi | .remeui | .sqrt => false

/-- Two latches agree on all a command reads: the low N bits of the operands R99 lists for it, and RCFG for a render
command (10_state.md R22, 30_encoding.md R99). -/
abbrev SameOperands (i : Instr) (l₁ l₂ : Latch) : Prop :=
  l₁.opa.setWidth i.fields.w.bits = l₂.opa.setWidth i.fields.w.bits
    ∧ (readsOpb i.fields.op = true → l₁.opb.setWidth i.fields.w.bits = l₂.opb.setWidth i.fields.w.bits)
    ∧ (readsOpc i.fields.op = true → l₁.opc.setWidth i.fields.w.bits = l₂.opc.setWidth i.fields.w.bits)
    ∧ (readsRcfg i.fields.op = true → l₁.rcfg = l₂.rcfg)

/-! ## Illegal words (30_encoding.md R101) -/

/-- The conditions that make a word illegal, each on the numbers its fields hold (30_encoding.md R101): a reserved OP
(R92), W of 5 to 7, FL of 5 to 7, FL not legal for OP (R98), f outside the range for OP and N = 8 · 2^W (R100), or a bit
of [31:23]. -/
abbrev IllegalWord (v : Word32) : Prop :=
  ((v.extractLsb' 0 6).toNat = 0x00 ∨ 0x09 ≤ (v.extractLsb' 0 6).toNat ∧ (v.extractLsb' 0 6).toNat ≤ 0x0F
      ∨ 0x15 ≤ (v.extractLsb' 0 6).toNat)
    ∨ 5 ≤ (v.extractLsb' 6 3).toNat
    ∨ 5 ≤ (v.extractLsb' 10 3).toNat
    ∨ ((v.extractLsb' 0 6).toNat = 0x08 ∧ 2 ≤ (v.extractLsb' 10 3).toNat
        ∨ 0x10 ≤ (v.extractLsb' 0 6).toNat ∧ (v.extractLsb' 0 6).toNat ≤ 0x14 ∧ (v.extractLsb' 10 3).toNat ≠ 0)
    ∨ ((v.extractLsb' 0 6).toNat = 0x03
          ∧ ((v.extractLsb' 13 10).toInt < -(8 * 2 ^ (v.extractLsb' 6 3).toNat : Int)
              ∨ 2 * (8 * 2 ^ (v.extractLsb' 6 3).toNat : Int) < (v.extractLsb' 13 10).toInt)
        ∨ (v.extractLsb' 0 6).toNat ≠ 0x03
          ∧ ((v.extractLsb' 13 10).toInt < 0
              ∨ (8 * 2 ^ (v.extractLsb' 6 3).toNat : Int) < (v.extractLsb' 13 10).toInt))
    ∨ v.extractLsb' 23 9 ≠ 0

/-! ## Accesses -/

/-- An access the interface has (20_memory.md R62). -/
abbrev wellFormedAccess (bytes off : Nat) : Prop := bytes = 4 ∧ off % 4 = 0 ∧ off < 0x1000

/-- A host action that is not the reset input and makes no access outside the interface. -/
def plainAction : HostOp → Prop
  | .rd bytes off => wellFormedAccess bytes off
  | .wr bytes off _ => wellFormedAccess bytes off
  | .wait => True
  | .reset => False

/-! ## The parts of a rendered text, on the bits of RCFG (10_state.md R26) -/

/-- The sign (46_render.md R262): `-` for a negative value, else `+` with PLUS. -/
def shownSign (w : Width) (sg : Sign) (opa : Word128) (rcfg : Word32) : List Byte :=
  if val w sg opa < 0 then [0x2D#8] else if rcfg.getLsbD 21 then [0x2B#8] else []

/-- The prefix (46_render.md R251, R263): `0b`, `0o` or `0x` with ALT, none for decimal. -/
def shownPrefix (r : Radix) (rcfg : Word32) : List Byte :=
  if rcfg.getLsbD 20 then
    match r with
    | .dec => []
    | .bin => [0x30#8, 0x62#8]
    | .oct => [0x30#8, 0x6F#8]
    | .hexLower => [0x30#8, 0x78#8]
    | .hexUpper => [0x30#8, 0x78#8]
  else []

/-- The fractional digit count k (46_render.md R254): PREC with PREC_EN (R256); else nat(F, f, 10) with F = mag mod 2^f
for decimal (R258), and ceil(f / b) with b = 1, 3 or 4 for the other radices (R251, R257). -/
def shownDigitCount (r : Radix) (f mag : Nat) (rcfg : Word32) : Nat :=
  if rcfg.getLsbD 0 then (rcfg.extractLsb' 1 8).toNat
  else
    match r with
    | .dec => autoDecimalDigits (mag % 2 ^ f) f
    | .bin => f
    | .oct => (f + 2) / 3
    | .hexLower => (f + 3) / 4
    | .hexUpper => (f + 3) / 4

/-- The body: the digits of the magnitude |val| (46_render.md R250) rounded to k fractional digits (R255, R261), with
trailing zeros trimmed exactly when PREC_EN = 0 (R260). -/
def shownBody (r : Radix) (w : Width) (sg : Sign) (f : Nat) (opa : Word128) (rcfg : Word32) : List Byte :=
  let mag := (val w sg opa).natAbs
  let k := shownDigitCount r f mag rcfg
  digitBody r k (!rcfg.getLsbD 0) (roundedDigits r f mag k)

/-! ## Digits -/

/-- The number a digit list denotes in base `b`, most significant digit first. -/
def digitsValue (b : Nat) (ds : List Nat) : Nat := ds.foldl (fun v d => v * b + d) 0

end Sys2Proof.Machine
end

