-- ==== Sys2Proof/Certificates/Slice0/Obligations.lean ====
section
/-! DEFINITION. The statements of the first slice, each a proposition named under Obligations. -/

open Sys2Proof Sys2Proof.Machine

/-! ## Encoding -/

/-- The words of the examples of 30_encoding.md section 4, and a reserved OP, a reserved W and a reserved bit. -/
def Obligations.ExampleWordsDecodeAsTheSpecWritesThem : Prop :=
  decode 0x00010041#32 = .ok (.mul .w16 .unsigned 8#10)
    ∧ decode 0x007F9283#32 = .ok (.muladdO .w32 .signed (BitVec.ofInt 10 (-4)))
    ∧ decode 0x00100114#32 = .ok (.rhexu .w128 .unsigned 128#10)
    ∧ decode 0x00000009#32 = .error .reservedOp
    ∧ decode 0x00000141#32 = .error .reservedWidth
    ∧ decode 0x80010041#32 = .error .reservedBits

/-- Decoding the word of a well-formed command gives the command back. -/
def Obligations.DecodeOfEncodeIsTheCommand : Prop :=
  ∀ i : Instr, i.wellFormed = true → decode (encode i) = .ok i

/-- A word has one meaning: a word that decodes to a command is that command's word, and the command is well-formed. -/
def Obligations.DecodedCommandEncodesToItsWord : Prop :=
  ∀ (v : Word32) (i : Instr), decode v = .ok i → encode i = v ∧ i.wellFormed = true

/-- A word decodes exactly when the legality predicate of 30_encoding.md R102 holds of it. -/
def Obligations.DecodeAcceptsExactlyTheLegalWords : Prop :=
  ∀ v : Word32,
    (∃ i, decode v = .ok i) ↔
      (v.extractLsb' 23 9).toNat = 0
        ∧ ((0x01 ≤ (v.extractLsb' 0 6).toNat ∧ (v.extractLsb' 0 6).toNat ≤ 0x08)
            ∨ (0x10 ≤ (v.extractLsb' 0 6).toNat ∧ (v.extractLsb' 0 6).toNat ≤ 0x14))
        ∧ (v.extractLsb' 6 3).toNat ≤ 4
        ∧ (if (v.extractLsb' 0 6).toNat ≤ 0x07 then (v.extractLsb' 10 3).toNat ≤ 4
           else if (v.extractLsb' 0 6).toNat = 0x08 then (v.extractLsb' 10 3).toNat ≤ 1
           else (v.extractLsb' 10 3).toNat = 0)
        ∧ (if (v.extractLsb' 0 6).toNat = 0x03 then
             -(8 * 2 ^ (v.extractLsb' 6 3).toNat : Int) ≤ (v.extractLsb' 13 10).toInt
               ∧ (v.extractLsb' 13 10).toInt ≤ 2 * (8 * 2 ^ (v.extractLsb' 6 3).toNat : Int)
           else
             0 ≤ (v.extractLsb' 13 10).toInt
               ∧ (v.extractLsb' 13 10).toInt ≤ (8 * 2 ^ (v.extractLsb' 6 3).toNat : Int))

/-! ## The step -/

/-- When the completion step of the command in flight is due and its word decodes, the step is that command's meaning,
with nothing added around it; so in particular when the word is placed for the next step.
That exec is a completion step is the model's choice
(notes/assumptions/1.md). -/
def Obligations.StepRunsTheDecodedCommand : Prop :=
  (∀ (s : State) (l : Latch) (i : Instr),
      s.inflight = some l → s.countdown = 0 → decode l.cmd = .ok i → step s = exec i s)
    ∧ ∀ (s : State) (v : Word32) (i : Instr),
        decode v = .ok i → step (s.withFetchWord 32 v.toNat) = exec i (s.withFetchWord 32 v.toNat)

/-- A word that fails any of the conditions of 30_encoding.md R101 is accepted as any other (the accepted state is
said but for the model's own countdown and counter), and its completion step reports ILLEGAL and writes no result. -/
def Obligations.IllegalWordIsAcceptedAndCompletesWithIllegal : Prop :=
  ∀ v : Word32, IllegalWord v →
    (∀ (s : State) (rest : List HostOp), s.inflight = none → s.hostQueue = .wr 4 0x030 v :: rest →
        ∃ n k, step s = .next { s with
          cmd := v
          inflight := some { cmd := v, opa := s.opa, opb := s.opb, opc := s.opc, rcfg := s.rcfg }
          done := false, ov := false, absent := false, err := .none
          hostQueue := rest, countdown := n, freeTick := k })
    ∧ ∀ (s : State) (l : Latch), l.cmd = v → s.inflight = some l → s.countdown = 0 →
        step s = .next (afterError s .illegal false)

/-- A command whose FRAC field is out of range completes with ILLEGAL, whatever its operands. -/
def Obligations.IllFormedCommandRaisesIllegal : Prop :=
  ∀ (i : Instr) (s : State) (l : Latch),
    i.wellFormed = false → s.inflight = some l → exec i s = .next (afterError s .illegal false)

/-! ## Arithmetic commands: results, overflow and frame -/

/-- The three flavour tables of 40_arith_common.md: what a completion writes for an exact result x, for an error, and
for a Euclidean adjustment that does not fit. -/
def Obligations.FlavourTablesSayWhatACompletionWrites : Prop :=
  ∀ (w : Width) (sg : Sign) (s : State) (x : Int),
    (Representable w sg x → ∀ fl : Flavour,
        complete s (applyFlavour fl w sg (.ok x)) = afterResult s (resultPattern w sg x) false)
    ∧ (¬ Representable w sg x →
        complete s (applyFlavour .unchecked w sg (.ok x)) = afterError s .overflow true
        ∧ complete s (applyFlavour .checked w sg (.ok x)) = afterAbsent s true
        ∧ complete s (applyFlavour .wrapping w sg (.ok x)) = afterResult s (resultPattern w sg x) true
        ∧ (maxVal w sg < x → complete s (applyFlavour .saturating w sg (.ok x))
              = afterResult s (resultPattern w sg (maxVal w sg)) true)
        ∧ (x < minVal w sg → complete s (applyFlavour .saturating w sg (.ok x))
              = afterResult s (resultPattern w sg (minVal w sg)) true)
        ∧ complete s (applyFlavour .overflowing w sg (.ok x)) = afterResult s (resultPattern w sg x) true)
    ∧ (∀ (fl : Flavour) (e : ErrCode), e = .illegal ∨ e = .divzero →
        complete s (applyFlavour fl w sg (.err e)) = afterError s e false)
    ∧ ∀ r : Int,
        complete s (applyFlavour .unchecked w sg (.euOvf r x)) = afterError s .overflow true
        ∧ complete s (applyFlavour .checked w sg (.euOvf r x)) = afterAbsent s true
        ∧ complete s (applyFlavour .wrapping w sg (.euOvf r x)) = afterResult s (resultPattern w sg r) true
        ∧ complete s (applyFlavour .saturating w sg (.euOvf r x))
            = afterResult s (resultPattern w sg (maxVal w sg)) true
        ∧ complete s (applyFlavour .overflowing w sg (.euOvf r x)) = afterResult s (resultPattern w sg r) true

/-- MUL in its five flavours: the exact result is the floor of A · B / 2^f. -/
def Obligations.MulWritesTheFlooredProduct : Prop :=
  ∀ (w : Width) (sg : Sign) (f : Frac) (s : State) (l : Latch) (x : Int),
    s.inflight = some l → 0 ≤ f.toInt → f.toInt ≤ w.bits →
    x * 2 ^ f.toInt.toNat ≤ val w sg l.opa * val w sg l.opb →
    val w sg l.opa * val w sg l.opb < (x + 1) * 2 ^ f.toInt.toNat →
    FlavourRows w sg s x (.mul w sg f) (.mulC w sg f) (.mulW w sg f) (.mulS w sg f) (.mulO w sg f)

/-- DIV in its five flavours: the exact result is A · 2^f / B rounded toward zero: the remainder r is smaller than the
divisor and has the sign of the dividend, or is zero. -/
def Obligations.DivWritesTheTruncatedQuotient : Prop :=
  ∀ (w : Width) (sg : Sign) (f : Frac) (s : State) (l : Latch) (x r : Int),
    s.inflight = some l → 0 ≤ f.toInt → f.toInt ≤ w.bits → val w sg l.opb ≠ 0 →
    val w sg l.opa * 2 ^ f.toInt.toNat = x * val w sg l.opb + r →
    |r| < |val w sg l.opb| → 0 ≤ r * val w sg l.opa →
    FlavourRows w sg s x (.div w sg f) (.divC w sg f) (.divW w sg f) (.divS w sg f) (.divO w sg f)

/-- A zero divisor is reported as DIVZERO by DIV and the four remainders in every flavour, with no result. -/
def Obligations.ZeroDivisorIsReportedInEveryFlavour : Prop :=
  ∀ (w : Width) (sg : Sign) (f : Frac) (s : State) (l : Latch),
    s.inflight = some l → 0 ≤ f.toInt → f.toInt ≤ w.bits → val w sg l.opb = 0 →
    ∀ i ∈ [Instr.div w sg f, .divC w sg f, .divW w sg f, .divS w sg f, .divO w sg f,
           .rem w sg f, .remC w sg f, .remW w sg f, .remS w sg f, .remO w sg f,
           .remeu w sg f, .remeuC w sg f, .remeuW w sg f, .remeuS w sg f, .remeuO w sg f,
           .remi w sg f, .remiC w sg f, .remiW w sg f, .remiS w sg f, .remiO w sg f,
           .remeui w sg f, .remeuiC w sg f, .remeuiW w sg f, .remeuiS w sg f, .remeuiO w sg f],
      exec i s = .next (afterError s .divzero false)

/-- MULADD in its five flavours: the exact result is C plus q, the floor of A · M / 2^f for f ≥ 0, and A · M · 2^(−f)
for f < 0. -/
def Obligations.MuladdAddsToTheFlooredProduct : Prop :=
  ∀ (w : Width) (sg : Sign) (f : Frac) (s : State) (l : Latch) (q : Int),
    s.inflight = some l → -(w.bits : Int) ≤ f.toInt → f.toInt ≤ 2 * w.bits →
    (0 ≤ f.toInt → q * 2 ^ f.toInt.toNat ≤ val w sg l.opa * val w sg l.opb
        ∧ val w sg l.opa * val w sg l.opb < (q + 1) * 2 ^ f.toInt.toNat) →
    (f.toInt < 0 → q = val w sg l.opa * val w sg l.opb * 2 ^ (-f.toInt).toNat) →
    FlavourRows w sg s (q + val w sg l.opc)
      (.muladd w sg f) (.muladdC w sg f) (.muladdW w sg f) (.muladdS w sg f) (.muladdO w sg f)

/-- REM writes the truncating remainder, OV = 0, the same in every flavour. -/
def Obligations.RemWritesTheTruncatingRemainder : Prop :=
  ∀ (w : Width) (sg : Sign) (f : Frac) (s : State) (l : Latch) (r : Int),
    s.inflight = some l → 0 ≤ f.toInt → f.toInt ≤ w.bits → val w sg l.opb ≠ 0 →
    IsTruncRem (val w sg l.opa) (val w sg l.opb) r →
    AllWrite w sg s r [.rem w sg f, .remC w sg f, .remW w sg f, .remS w sg f, .remO w sg f]

/-- REMEU writes the Euclidean remainder, OV = 0, the same in every flavour: it never overflows. -/
def Obligations.RemeuWritesTheEuclideanRemainder : Prop :=
  ∀ (w : Width) (sg : Sign) (f : Frac) (s : State) (l : Latch) (r : Int),
    s.inflight = some l → 0 ≤ f.toInt → f.toInt ≤ w.bits → val w sg l.opb ≠ 0 →
    IsEuclidRem (val w sg l.opa) (val w sg l.opb) r →
    AllWrite w sg s r [.remeu w sg f, .remeuC w sg f, .remeuW w sg f, .remeuS w sg f, .remeuO w sg f]

/-- REMI writes the truncating remainder of A by d · 2^f where f < N and d · 2^f is representable, and A itself
otherwise; OV = 0, the same in every flavour. -/
def Obligations.RemiWritesTheRemainderByAnInteger : Prop :=
  ∀ (w : Width) (sg : Sign) (f : Frac) (s : State) (l : Latch),
    s.inflight = some l → 0 ≤ f.toInt → f.toInt ≤ w.bits → val w sg l.opb ≠ 0 →
    (f.toInt < w.bits → Representable w sg (val w sg l.opb * 2 ^ f.toInt.toNat) →
      ∀ r, IsTruncRem (val w sg l.opa) (val w sg l.opb * 2 ^ f.toInt.toNat) r →
        AllWrite w sg s r [.remi w sg f, .remiC w sg f, .remiW w sg f, .remiS w sg f, .remiO w sg f])
    ∧ (f.toInt = w.bits ∨ ¬ Representable w sg (val w sg l.opb * 2 ^ f.toInt.toNat) →
        AllWrite w sg s (val w sg l.opa)
          [.remi w sg f, .remiC w sg f, .remiW w sg f, .remiS w sg f, .remiO w sg f])

/-- REMEUI writes the Euclidean remainder of A by d · 2^f where f < N and d · 2^f is representable. Otherwise it
writes A when A ≥ 0, and when A < 0 the adjustment x = A + |d| · 2^f if that is representable; if it is not, the
flavour decides: OVERFLOW, absent, the unadjusted A with OV = 1, MAX with OV = 1, the unadjusted A with OV = 1. -/
def Obligations.RemeuiWritesTheEuclideanRemainderByAnInteger : Prop :=
  ∀ (w : Width) (sg : Sign) (f : Frac) (s : State) (l : Latch),
    s.inflight = some l → 0 ≤ f.toInt → f.toInt ≤ w.bits → val w sg l.opb ≠ 0 →
    (f.toInt < w.bits → Representable w sg (val w sg l.opb * 2 ^ f.toInt.toNat) →
      ∀ r, IsEuclidRem (val w sg l.opa) (val w sg l.opb * 2 ^ f.toInt.toNat) r →
        AllWrite w sg s r [.remeui w sg f, .remeuiC w sg f, .remeuiW w sg f, .remeuiS w sg f, .remeuiO w sg f])
    ∧ (f.toInt = w.bits ∨ ¬ Representable w sg (val w sg l.opb * 2 ^ f.toInt.toNat) →
        (0 ≤ val w sg l.opa →
          AllWrite w sg s (val w sg l.opa)
            [.remeui w sg f, .remeuiC w sg f, .remeuiW w sg f, .remeuiS w sg f, .remeuiO w sg f])
        ∧ (val w sg l.opa < 0 →
            Representable w sg (val w sg l.opa + |val w sg l.opb| * 2 ^ f.toInt.toNat) →
            AllWrite w sg s (val w sg l.opa + |val w sg l.opb| * 2 ^ f.toInt.toNat)
              [.remeui w sg f, .remeuiC w sg f, .remeuiW w sg f, .remeuiS w sg f, .remeuiO w sg f])
        ∧ (val w sg l.opa < 0 →
            ¬ Representable w sg (val w sg l.opa + |val w sg l.opb| * 2 ^ f.toInt.toNat) →
            exec (.remeui w sg f) s = .next (afterError s .overflow true)
              ∧ exec (.remeuiC w sg f) s = .next (afterAbsent s true)
              ∧ exec (.remeuiW w sg f) s = .next (afterResult s (resultPattern w sg (val w sg l.opa)) true)
              ∧ exec (.remeuiS w sg f) s = .next (afterResult s (resultPattern w sg (maxVal w sg)) true)
              ∧ exec (.remeuiO w sg f) s = .next (afterResult s (resultPattern w sg (val w sg l.opa)) true)))

/-- MIN rem −1 is 0 with OV = 0 and no error in REM and REMEU, in every flavour, although the matching DIV
overflows. -/
def Obligations.MinRemMinusOneIsZeroThoughDivOverflows : Prop :=
  ∀ (w : Width) (f : Frac) (s : State) (l : Latch),
    s.inflight = some l → 0 ≤ f.toInt → f.toInt ≤ w.bits →
    val w .signed l.opa = minVal w .signed → val w .signed l.opb = -1 →
    AllWrite w .signed s 0
        [.rem w .signed f, .remC w .signed f, .remW w .signed f, .remS w .signed f, .remO w .signed f,
         .remeu w .signed f, .remeuC w .signed f, .remeuW w .signed f, .remeuS w .signed f, .remeuO w .signed f]
      ∧ exec (.div w .signed f) s = .next (afterError s .overflow true)

/-- The corner where REMI is not the exact remainder: for A = MIN and d = 2^(N−1−f) the realigned divisor is not
representable, REMI writes MIN in every flavour, and the exact remainder is 0. -/
def Obligations.RemiReturnsMinWhereTheRealignedDivisorOverflows : Prop :=
  ∀ (w : Width) (f : Frac) (s : State) (l : Latch),
    s.inflight = some l → 1 ≤ f.toInt → f.toInt ≤ (w.bits : Int) - 1 →
    val w .signed l.opa = minVal w .signed → val w .signed l.opb = 2 ^ (w.bits - 1 - f.toInt.toNat) →
    ¬ Representable w .signed (val w .signed l.opb * 2 ^ f.toInt.toNat)
      ∧ AllWrite w .signed s (minVal w .signed)
        [.remi w .signed f, .remiC w .signed f, .remiW w .signed f, .remiS w .signed f, .remiO w .signed f]
      ∧ (val w .signed l.opb * 2 ^ f.toInt.toNat) ∣ val w .signed l.opa

/-- A Euclidean adjustment that does not fit arises only in REMEUI, from a negative remainder, and always lies above
MAX. -/
def Obligations.EuclideanOverflowIsOnlyRemeuiAboveMax : Prop :=
  ∀ (w : Width) (sg : Sign) (f : Frac) (l : Latch) (r x : Int),
    (remeuiOutcome w sg f l = .euOvf r x → r < 0 ∧ maxVal w sg < x) ∧ remeuOutcome w sg f l ≠ .euOvf r x

/-- SQRT and SQRT.C: the root r with r² ≤ A · 2^f < (r + 1)² is written when it is representable, with the bits above
it 0; otherwise OVERFLOW or absent with OV = 1. A negative signed operand is DOMAIN or absent with OV = 0, and an f
out of range ILLEGAL. -/
def Obligations.SqrtWritesTheFloorRoot : Prop :=
  ∀ (w : Width) (sg : Sign) (f : Frac) (s : State) (l : Latch),
    s.inflight = some l →
    (0 ≤ f.toInt → f.toInt ≤ w.bits → ∀ r : Int,
      0 ≤ r → r * r ≤ val w sg l.opa * 2 ^ f.toInt.toNat →
      val w sg l.opa * 2 ^ f.toInt.toNat < (r + 1) * (r + 1) →
      (Representable w sg r → AllWrite w sg s r [.sqrt w sg f, .sqrtC w sg f]
          ∧ ((resultPattern w sg r).toNat : Int) = r)
        ∧ (¬ Representable w sg r →
            exec (.sqrt w sg f) s = .next (afterError s .overflow true)
              ∧ exec (.sqrtC w sg f) s = .next (afterAbsent s true)))
    ∧ (0 ≤ f.toInt → f.toInt ≤ w.bits → val w sg l.opa < 0 →
        exec (.sqrt w sg f) s = .next (afterError s .domain false)
          ∧ exec (.sqrtC w sg f) s = .next (afterAbsent s false))
    ∧ (f.toInt < 0 ∨ (w.bits : Int) < f.toInt →
        exec (.sqrt w sg f) s = .next (afterError s .illegal false)
          ∧ exec (.sqrtC w sg f) s = .next (afterError s .illegal false))

/-- A root fails only for a signed operand with f = N and A ≥ 2^(N−2). -/
def Obligations.SqrtOverflowsOnlyAtFullSignedFraction : Prop :=
  ∀ (w : Width) (sg : Sign) (f : Frac) (l : Latch) (r : Int),
    0 ≤ f.toInt → f.toInt ≤ w.bits → 0 ≤ r →
    r * r ≤ val w sg l.opa * 2 ^ f.toInt.toNat → val w sg l.opa * 2 ^ f.toInt.toNat < (r + 1) * (r + 1) →
    (¬ Representable w sg r ↔ sg = .signed ∧ f.toInt = w.bits ∧ 2 ^ (w.bits - 2) ≤ val w sg l.opa)

/-- The reference digit-by-digit algorithm and the root the command computes are the same function, the largest r with
r · r ≤ x. -/
def Obligations.DigitByDigitRootIsTheFloorRoot : Prop :=
  ∀ x : Nat,
    digitByDigitRoot x = isqrt x ∧ isqrt x * isqrt x ≤ x ∧ x < (isqrt x + 1) * (isqrt x + 1)

/-- RES holds the low N bits of the exact result, extended by its signedness; a representable result is read back from
all 128 bits. -/
def Obligations.ResultPatternIsTheExtendedWrap : Prop :=
  ∀ (w : Width) (sg : Sign) (x : Int),
    ((resultPattern w sg x).toNat : Int) % 2 ^ w.bits = x % 2 ^ w.bits
      ∧ (sg = .unsigned → (resultPattern w sg x).toNat < 2 ^ w.bits)
      ∧ (sg = .signed → Representable w sg (resultPattern w sg x).toInt)
      ∧ (Representable w sg x → sg = .unsigned → ((resultPattern w sg x).toNat : Int) = x)
      ∧ (Representable w sg x → sg = .signed → (resultPattern w sg x).toInt = x)
      ∧ (Representable w sg x → val w sg (resultPattern w sg x) = x)

/-- WRAPPING and OVERFLOWING are the same state change for each of the seven operations that have them. -/
def Obligations.WrappingAndOverflowingAgree : Prop :=
  ∀ (w : Width) (sg : Sign) (f : Frac) (s : State),
    exec (.mulW w sg f) s = exec (.mulO w sg f) s ∧ exec (.divW w sg f) s = exec (.divO w sg f) s
      ∧ exec (.muladdW w sg f) s = exec (.muladdO w sg f) s ∧ exec (.remW w sg f) s = exec (.remO w sg f) s
      ∧ exec (.remeuW w sg f) s = exec (.remeuO w sg f) s ∧ exec (.remiW w sg f) s = exec (.remiO w sg f) s
      ∧ exec (.remeuiW w sg f) s = exec (.remeuiO w sg f) s

/-- What a command writes depends only on the low N bits of the operands it reads, and on RCFG for a render command:
two machines whose latches agree on them are changed alike. -/
def Obligations.ResultDependsOnlyOnTheOperandsRead : Prop :=
  ∀ (i : Instr) (s₁ s₂ : State) (l₁ l₂ : Latch),
    s₁.inflight = some l₁ → s₂.inflight = some l₂ → SameOperands i l₁ l₂ →
    ∃ c : Completion, exec i s₁ = .next (complete s₁ c) ∧ exec i s₂ = .next (complete s₂ c)

/-! ## The tiers -/

/-- MUL in a register of 2N bits leaves the wrapped exact result and the overflow of the exact result. -/
def Obligations.WidenedMulMatchesTheExactRule : Prop :=
  ∀ (w : Width) (sg : Sign) (f : Nat) (a b : Word128), f ≤ w.bits →
    widenedMul w.bits sg f (a.setWidth w.bits) (b.setWidth w.bits)
      = { pattern := BitVec.ofInt w.bits (floorShift (val w sg a * val w sg b) f)
          overflow := decide (¬ Representable w sg (floorShift (val w sg a * val w sg b) f)) }

/-- DIV of a 2N-bit dividend leaves the wrapped exact quotient and its overflow. -/
def Obligations.WidenedDivMatchesTheExactRule : Prop :=
  ∀ (w : Width) (sg : Sign) (f : Nat) (a b : Word128), f ≤ w.bits → val w sg b ≠ 0 →
    widenedDiv w.bits sg f (a.setWidth w.bits) (b.setWidth w.bits)
      = { pattern := BitVec.ofInt w.bits ((exactShift (val w sg a) f).tdiv (val w sg b))
          overflow := decide (¬ Representable w sg ((exactShift (val w sg a) f).tdiv (val w sg b))) }

/-- MULADD in 2N bits with the normalised f: the union of its three overflow checks is the overflow of the exact
result, and the pattern kept is the wrapped exact result. -/
def Obligations.WidenedMuladdChecksAreExactlyOverflow : Prop :=
  ∀ (w : Width) (sg : Sign) (f : Int) (a b c : Word128), -(w.bits : Int) ≤ f → f ≤ 2 * w.bits →
    widenedMulAdd w.bits sg f (a.setWidth w.bits) (b.setWidth w.bits) (c.setWidth w.bits)
      = { pattern := BitVec.ofInt w.bits (scaleProduct (val w sg a * val w sg b) f + val w sg c)
          overflow := decide (¬ Representable w sg (scaleProduct (val w sg a * val w sg b) f + val w sg c)) }

/-- The limb engine's MUL equals the exact rule. -/
def Obligations.LimbMulMatchesTheExactRule : Prop :=
  ∀ (sg : Sign) (f : Nat) (a b : Word128), f ≤ 128 →
    limbMul sg f a b
      = { pattern := BitVec.ofInt 128 (floorShift (val .w128 sg a * val .w128 sg b) f)
          overflow := decide (¬ Representable .w128 sg (floorShift (val .w128 sg a * val .w128 sg b) f)) }

/-- The limb engine's DIV equals the exact rule. -/
def Obligations.LimbDivMatchesTheExactRule : Prop :=
  ∀ (sg : Sign) (f : Nat) (a b : Word128), f ≤ 128 → val .w128 sg b ≠ 0 →
    limbDiv sg f a b
      = { pattern := BitVec.ofInt 128 ((exactShift (val .w128 sg a) f).tdiv (val .w128 sg b))
          overflow := decide (¬ Representable .w128 sg ((exactShift (val .w128 sg a) f).tdiv (val .w128 sg b))) }

/-- The limb engine's MULADD equals the exact rule: pattern and V. -/
def Obligations.LimbMuladdMatchesTheExactRule : Prop :=
  ∀ (sg : Sign) (f : Int) (a b c : Word128), -128 ≤ f → f ≤ 256 →
    limbMulAdd sg f a b c
      = { pattern := BitVec.ofInt 128 (scaleProduct (val .w128 sg a * val .w128 sg b) f + val .w128 sg c)
          overflow :=
            decide (¬ Representable .w128 sg (scaleProduct (val .w128 sg a * val .w128 sg b) f + val .w128 sg c)) }

/-! ## Rendering -/

/-- A legal render command writes its text: TXT[i] is byte i of Render(L) and 0x00 beyond it, TXTLEN its length, OV,
ABSENT and ERR 0; RES and all else stay. An f out of range leaves TXT and TXTLEN and reports ILLEGAL, and so does any
illegal word of a render command. -/
def Obligations.RenderCommandsWriteTheText : Prop :=
  (∀ (w : Width) (sg : Sign) (f : Frac) (s : State) (l : Latch), s.inflight = some l →
    ∀ p ∈ [(Instr.rdec w sg f, Radix.dec), (.rbin w sg f, .bin), (.roct w sg f, .oct),
           (.rhexl w sg f, .hexLower), (.rhexu w sg f, .hexUpper)],
      (0 ≤ f.toInt → f.toInt ≤ w.bits →
        ∃ t, exec p.1 s = .next t
          ∧ (∀ k, t.txt.read k = (render p.2 w sg f.toInt.toNat l.opa l.rcfg).getD k 0#8)
          ∧ t.txtlen.toNat = (render p.2 w sg f.toInt.toNat l.opa l.rcfg).length
          ∧ t = { s with
                  txt := t.txt, txtlen := t.txtlen, ov := false, absent := false, err := .none
                  done := true, inflight := none })
      ∧ (f.toInt < 0 ∨ (w.bits : Int) < f.toInt → exec p.1 s = .next (afterError s .illegal false)))
  ∧ ∀ (s : State) (l : Latch), isRenderWord l.cmd = true → IllegalWord l.cmd → s.inflight = some l → s.countdown = 0 →
      step s = .next (afterError s .illegal false)

/-- No text is longer than 387 bytes, so TXT always has room for it. -/
def Obligations.RenderedTextHasAtMost387Bytes : Prop :=
  ∀ (r : Radix) (w : Width) (sg : Sign) (f : Nat) (opa : Word128) (rcfg : Word32), f ≤ w.bits →
    (render r w sg f opa rcfg).length ≤ 387

/-- The rounded value is a nearest one, and the even one of the two at a tie. -/
def Obligations.RoundingIsToNearestTiesToEven : Prop :=
  ∀ num f : Nat,
    2 * |(num : Int) - roundHalfEven num f * 2 ^ f| ≤ 2 ^ f
      ∧ (2 * |(num : Int) - roundHalfEven num f * 2 ^ f| = 2 ^ f → roundHalfEven num f % 2 = 0)

/-- The automatic decimal digit count is the least count that meets the criterion, and at most f. -/
def Obligations.AutomaticDecimalCountIsLeast : Prop :=
  ∀ fr f : Nat, fr < 2 ^ f →
    autoDecimalDigits fr f ≤ f
      ∧ 2 * min (fr * 10 ^ autoDecimalDigits fr f % 2 ^ f) (2 ^ f - fr * 10 ^ autoDecimalDigits fr f % 2 ^ f)
          < 10 ^ autoDecimalDigits fr f
      ∧ ∀ k < autoDecimalDigits fr f, 10 ^ k ≤ 2 * min (fr * 10 ^ k % 2 ^ f) (2 ^ f - fr * 10 ^ k % 2 ^ f)

/-- The round-trip property, of the number that the digits written denote: with k digits where b · k ≥ f, the digits of
a power-of-two radix denote the value exactly, and the automatic decimal digits denote a number strictly within half a
unit of the input's last place. -/
def Obligations.RenderedDigitsRoundTrip : Prop :=
  (∀ (r : Radix) (b f k mag : Nat), digitBits r = some b → f ≤ b * k →
      digitsValue (radixBase r) (roundedDigits r f mag k) * 2 ^ f = mag * radixBase r ^ k)
    ∧ ∀ mag f : Nat,
        let k := autoDecimalDigits (mag % 2 ^ f) f
        2 * |(digitsValue 10 (roundedDigits .dec f mag k) * 2 ^ f : Int) - mag * 10 ^ k| < 10 ^ k

/-- The digits written denote the rounded value, are digits of the radix, number at least k + 1, and have no leading
zero beyond that. -/
def Obligations.DigitsDenoteTheRoundedValue : Prop :=
  ∀ (r : Radix) (f mag k : Nat),
    let ds := roundedDigits r f mag k
    digitsValue (radixBase r) ds = roundHalfEven (mag * radixBase r ^ k) f
      ∧ (∀ d ∈ ds, d < radixBase r) ∧ k + 1 ≤ ds.length ∧ (k + 1 < ds.length → ds.head? ≠ some 0)

/-- The digit characters, and the body they make: the integer digits, then the point and the fractional digits if any
remain; with automatic precision the trailing zeros of the fraction are gone and the last digit kept is not 0. -/
def Obligations.DigitBodyPlacesThePointAndTrims : Prop :=
  (∀ (r : Radix) (d : Nat), d < radixBase r →
      (digitChar r d).toNat = if d < 10 then 0x30 + d else if r = .hexUpper then 0x41 + d - 10 else 0x61 + d - 10)
  ∧ ∀ (r : Radix) (k : Nat) (trim : Bool) (ds : List Nat), k < ds.length →
      ∃ (ip fp : List Nat) (z : Nat),
        ds = ip ++ fp ++ List.replicate z 0 ∧ ip.length = ds.length - k
          ∧ (trim = false → z = 0) ∧ (trim = true → fp.getLast? ≠ some 0)
          ∧ digitBody r k trim ds
              = ip.map (digitChar r) ++ (if fp = [] then [] else 0x2E#8 :: fp.map (digitChar r))

/-- Without a field width the text is the sign, the prefix and the body, and nothing else: the body is the digits of
|val| rounded to PREC fractional digits with PREC_EN, else to the automatic count and trimmed. -/
def Obligations.UnpaddedTextIsSignPrefixAndBody : Prop :=
  ∀ (r : Radix) (w : Width) (sg : Sign) (f : Nat) (opa : Word128) (rcfg : Word32), (rcfg.extractLsb' 9 8).toNat = 0 →
    render r w sg f opa rcfg = shownSign w sg opa rcfg ++ shownPrefix r rcfg ++ shownBody r w sg f opa rcfg

/-- For every RCFG the text is the sign, the prefix and the body, padded to WIDTH by ZPAD, ALIGN and FILL. -/
def Obligations.RenderedTextIsThePaddedSignPrefixAndBody : Prop :=
  ∀ (r : Radix) (w : Width) (sg : Sign) (f : Nat) (opa : Word128) (rcfg : Word32),
    render r w sg f opa rcfg
      = padText rcfg (shownSign w sg opa rcfg) (shownPrefix r rcfg) (shownBody r w sg f opa rcfg)

/-- Padding to the field width: nothing when WIDTH is not above the content's length; zeros after sign and prefix with
ZPAD; else fill bytes by ALIGN. -/
def Obligations.PaddingFollowsZpadThenAlign : Prop :=
  ∀ (rcfg : Word32) (sign pre body : List Byte),
    let c := sign ++ pre ++ body
    let width := (rcfg.extractLsb' 9 8).toNat
    let fill := fun n => List.replicate n (rcfg.extractLsb' 22 8)
    (width ≤ c.length → padText rcfg sign pre body = c)
      ∧ (c.length < width → rcfg.getLsbD 19 = true →
          padText rcfg sign pre body = sign ++ pre ++ List.replicate (width - c.length) 0x30#8 ++ body)
      ∧ (c.length < width → rcfg.getLsbD 19 = false →
          (rcfg.extractLsb' 17 2 = 1#2 → padText rcfg sign pre body = c ++ fill (width - c.length))
          ∧ (rcfg.extractLsb' 17 2 = 0#2 ∨ rcfg.extractLsb' 17 2 = 2#2 →
              padText rcfg sign pre body = fill (width - c.length) ++ c)
          ∧ (rcfg.extractLsb' 17 2 = 3#2 →
              padText rcfg sign pre body
                = fill ((width - c.length) / 2) ++ c ++ fill (width - c.length - (width - c.length) / 2)))

/-! ## Completion, errors and the invariant -/

/-- A due completion step always succeeds: it clears INFLIGHT and sets DONE, writes no operand register, RCFG, CMD or
CMDLOST, nor anything of the host's; a render command writes no RES, and any other no TXT and TXTLEN.
When it is due is the model's
countdown (notes/assumptions/2.md). -/
def Obligations.DueCompletionStepAlwaysCompletes : Prop :=
  ∀ (s : State) (l : Latch), s.inflight = some l → s.countdown = 0 →
    ∃ t, step s = .next t ∧ t.inflight = none ∧ t.done = true
      ∧ t.opa = s.opa ∧ t.opb = s.opb ∧ t.opc = s.opc ∧ t.rcfg = s.rcfg ∧ t.cmd = s.cmd ∧ t.cmdlost = s.cmdlost
      ∧ t.countdown = 0 ∧ t.hostQueue = s.hostQueue ∧ t.readData = s.readData ∧ t.freeTick = s.freeTick
      ∧ (isRenderWord l.cmd = true → t.res = s.res)
      ∧ (isRenderWord l.cmd = false → t.txt = s.txt ∧ t.txtlen = s.txtlen)

/-- A completion that ends in an error writes only STATUS: DONE = 1, ABSENT = 0, and OV = 1 exactly for OVERFLOW. -/
def Obligations.ErrorCompletionWritesOnlyStatus : Prop :=
  ∀ (s t : State) (l : Latch), s.inflight = some l → s.countdown = 0 → step s = .next t → t.err ≠ .none →
    t = { s with
          done := true, err := t.err, absent := false, ov := decide (t.err = .overflow), inflight := none }

/-- The reset state satisfies the invariant. -/
def Obligations.ResetStateHasTheInvariant : Prop := Inv State.reset

/-- Every step keeps the invariant, from any state that has it. -/
def Obligations.EveryStepKeepsTheInvariant : Prop :=
  ∀ s t : State, Inv s → step s = .next t → Inv t

/-- No step faults, and a step is refused only for an access the interface does not have.
Refusing an access outside the window is
the model's reading (notes/assumptions/7.md). -/
def Obligations.StepsStopOnlyAtAccessesOutsideTheInterface : Prop :=
  ∀ s : State,
    (∀ r, step s ≠ .fault r)
      ∧ ∀ r, step s = .refused r →
          ∃ bytes off rest, ¬ wellFormedAccess bytes off
            ∧ (s.hostQueue = .rd bytes off :: rest ∨ ∃ v, s.hostQueue = .wr bytes off v :: rest)

/-- A command in flight completes when its latency has passed, whatever plain actions the host performs meanwhile: it
is still the command CMD shows, and DONE is set.
The countdown that measures the latency in steps is the model's choice
(notes/assumptions/2.md). -/
def Obligations.CommandCompletesWhenItsLatencyHasPassed : Prop :=
  ∀ (s : State) (l : Latch), s.inflight = some l → (∀ op ∈ s.hostQueue, plainAction op) →
    ∃ t, Sys2Proof.core.run (s.countdown + 1) s = .next t ∧ t.inflight = none ∧ t.done = true ∧ t.cmd = s.cmd

/-- The polling loop WAIT exits once the command in flight has completed: the last word it reads has BUSY = 0 and
DONE = 1, and the host goes on.
The countdown and WAIT as a host action are the model's choices
(notes/assumptions/2.md, 15.md). -/
def Obligations.WaitExitsAfterTheCompletion : Prop :=
  ∀ (s : State) (l : Latch) (rest : List HostOp), s.inflight = some l → s.hostQueue = .wait :: rest →
    ∃ t, Sys2Proof.core.run (s.countdown + 2) s = .next t ∧ t.inflight = none ∧ t.hostQueue = rest
      ∧ t.readData.getLsbD 0 = false ∧ t.readData.getLsbD 1 = true

/-! ## The register window -/

/-- Acceptance: with no command in flight a CMD write latches the word and the registers and clears DONE, OV, ABSENT
and ERR; while it is in flight no later access of the host changes the latch. Only the model's own countdown and
counter are not said. -/
def Obligations.CmdWriteWhileIdleIsAccepted : Prop :=
  (∀ (s : State) (v : Word32) (rest : List HostOp), s.inflight = none → s.hostQueue = .wr 4 0x030 v :: rest →
      ∃ n k, step s = .next { s with
        cmd := v
        inflight := some { cmd := v, opa := s.opa, opb := s.opb, opc := s.opc, rcfg := s.rcfg }
        done := false, ov := false, absent := false, err := .none
        hostQueue := rest, countdown := n, freeTick := k })
    ∧ ∀ (s t : State) (l : Latch) (op : HostOp) (rest : List HostOp),
        s.inflight = some l → s.countdown ≠ 0 → s.hostQueue = op :: rest → op ≠ .reset → step s = .next t →
        t.inflight = some l

/-- A CMD write while a command is in flight is dropped: nothing changes but CMDLOST, which becomes 1. -/
def Obligations.CmdWriteWhileBusyIsDropped : Prop :=
  ∀ (s : State) (l : Latch) (v : Word32) (rest : List HostOp),
    s.inflight = some l → s.countdown ≠ 0 → s.hostQueue = .wr 4 0x030 v :: rest →
    step s = .next { s with cmdlost := true, hostQueue := rest, countdown := s.countdown - 1 }

/-- The word at offset base + 4k of a 128-bit register is its bits [32k+31 : 32k], for the four registers; a write of
that word of OPA, OPB or OPC changes those 32 bits alone, and nothing else. -/
def Obligations.RegisterWordsAreLittleEndianAndIndependent : Prop :=
  ∀ (s : State) (k : Nat) (rest : List HostOp), k < 4 → completionDue s = none →
    (∀ p ∈ [(0x000, s.opa), (0x010, s.opb), (0x020, s.opc), (0x040, s.res)],
        s.hostQueue = .rd 4 (p.1 + 4 * k) :: rest →
        step s = .next { s with
          readData := p.2.extractLsb' (32 * k) 32, hostQueue := rest, countdown := s.countdown - 1 })
      ∧ ∀ v : Word32, ∃ r : Word128 → Word128,
          (∀ x j, j < 4 → (r x).extractLsb' (32 * j) 32 = if j = k then v else x.extractLsb' (32 * j) 32)
            ∧ (s.hostQueue = .wr 4 (0x000 + 4 * k) v :: rest →
                step s = .next { s with opa := r s.opa, hostQueue := rest, countdown := s.countdown - 1 })
            ∧ (s.hostQueue = .wr 4 (0x010 + 4 * k) v :: rest →
                step s = .next { s with opb := r s.opb, hostQueue := rest, countdown := s.countdown - 1 })
            ∧ (s.hostQueue = .wr 4 (0x020 + 4 * k) v :: rest →
                step s = .next { s with opc := r s.opc, hostQueue := rest, countdown := s.countdown - 1 })

/-- TXT is packed little-endian: byte m of the word read at 0x100 + 4j is TXT[4j + m], while no render command is in
flight. -/
def Obligations.TextWordsArePackedLittleEndian : Prop :=
  ∀ (s : State) (j : Nat) (rest : List HostOp),
    j < 128 → completionDue s = none → renderInFlight s = false → s.hostQueue = .rd 4 (0x100 + 4 * j) :: rest →
    ∃ d : Word32, step s = .next { s with readData := d, hostQueue := rest, countdown := s.countdown - 1 }
      ∧ ∀ m < 4, d.extractLsb' (8 * m) 8 = s.txt.read (4 * j + m)

/-- Reserved offsets read 0; writes to reserved offsets and to TXTLEN, RES and TXT change nothing; the reserved bits of
RCFG and STATUS read 0 and ignore writes. -/
def Obligations.ReservedAndReadOnlyRegistersIgnoreWrites : Prop :=
  ∀ (s : State) (off : Nat) (v : Word32) (rest : List HostOp), completionDue s = none → off % 4 = 0 →
    ((0x050 ≤ off ∧ off < 0x100 ∨ 0x300 ≤ off ∧ off < 0x1000) → s.hostQueue = .rd 4 off :: rest →
        step s = .next { s with readData := 0#32, hostQueue := rest, countdown := s.countdown - 1 })
    ∧ (0x03C ≤ off ∧ off < 0x1000 → s.hostQueue = .wr 4 off v :: rest →
        step s = .next { s with hostQueue := rest, countdown := s.countdown - 1 })
    ∧ (s.hostQueue = .rd 4 0x034 :: rest →
        ∃ d : Word32, step s = .next { s with readData := d, hostQueue := rest, countdown := s.countdown - 1 }
          ∧ ∀ b < 32, d.getLsbD b = (s.rcfg.getLsbD b && decide (b < 30)))
    ∧ (s.hostQueue = .wr 4 0x034 v :: rest →
        ∃ c : Word32, step s = .next { s with rcfg := c, hostQueue := rest, countdown := s.countdown - 1 }
          ∧ ∀ b < 32, c.getLsbD b = (v.getLsbD b && decide (b < 30)))
    ∧ (s.hostQueue = .rd 4 0x038 :: rest →
        ∃ d : Word32, step s = .next { s with readData := d, hostQueue := rest, countdown := s.countdown - 1 }
          ∧ ∀ b, 9 ≤ b → d.getLsbD b = false)
    ∧ (s.hostQueue = .wr 4 0x038 v :: rest →
        step s = .next { s with
          cmdlost := s.cmdlost && !v.getLsbD 8, hostQueue := rest, countdown := s.countdown - 1 })

/-- A read of STATUS shows BUSY, 1 exactly when a command is in flight, and the other fields at their places. -/
def Obligations.StatusReadShowsTheFields : Prop :=
  ∀ (s : State) (rest : List HostOp), completionDue s = none → s.hostQueue = .rd 4 0x038 :: rest →
    ∃ d : Word32, step s = .next { s with readData := d, hostQueue := rest, countdown := s.countdown - 1 }
      ∧ (d.getLsbD 0 = true ↔ s.inflight ≠ none)
      ∧ d.getLsbD 1 = s.done ∧ d.getLsbD 2 = s.ov ∧ d.getLsbD 3 = s.absent
      ∧ ((d.extractLsb' 4 4).toNat
          = match s.err with
            | .none => 0
            | .illegal => 1
            | .divzero => 2
            | .overflow => 3
            | .domain => 4)
      ∧ d.getLsbD 8 = s.cmdlost

/-- While a command is in flight, in a state with the invariant, STATUS reads BUSY = 1, DONE, OV, ABSENT and ERR 0, and
the current CMDLOST; a word of TXT or TXTLEN reads its current value unless the command is a render command, and then
the free value of the read, a new one each time.
The free value per read, and a render command told by
its OP, are the model's (notes/assumptions/5.md, 6.md). -/
def Obligations.ReadsWhileACommandIsInFlight : Prop :=
  ∀ (s : State) (l : Latch) (off : Nat) (rest : List HostOp), Inv s → s.inflight = some l → s.countdown ≠ 0 →
    off % 4 = 0 → s.hostQueue = .rd 4 off :: rest →
    (off = 0x038 →
        step s = .next { s with
          readData := if s.cmdlost then 0x00000101#32 else 0x00000001#32
          hostQueue := rest, countdown := s.countdown - 1 })
    ∧ (off = 0x03C → isRenderWord l.cmd = false →
        step s = .next { s with readData := s.txtlen, hostQueue := rest, countdown := s.countdown - 1 })
    ∧ (0x100 ≤ off → off < 0x300 → isRenderWord l.cmd = false →
        ∃ d : Word32, step s = .next { s with readData := d, hostQueue := rest, countdown := s.countdown - 1 }
          ∧ ∀ m < 4, d.extractLsb' (8 * m) 8 = s.txt.read (off - 0x100 + m))
    ∧ ((off = 0x03C ∨ 0x100 ≤ off ∧ off < 0x300) → isRenderWord l.cmd = true →
        step s = .next { s with
          readData := Config.unspecifiedRead s.freeTick, freeTick := s.freeTick + 1
          hostQueue := rest, countdown := s.countdown - 1 })

/-- No read changes a register of FXCORE: only the word the host gets and the model's own queue, countdown and
counter.
(The host's queue and word are the model's: notes/assumptions/3.md.) -/
def Obligations.ReadsChangeNoRegister : Prop :=
  ∀ (s : State) (off : Nat) (rest : List HostOp),
    completionDue s = none → off % 4 = 0 → off < 0x1000 → s.hostQueue = .rd 4 off :: rest →
    ∃ d n, step s = .next { s with
      readData := d, freeTick := n, hostQueue := rest, countdown := s.countdown - 1 }

/-- CMD reads the last accepted word, TXTLEN its length with bits [31:10] 0, while no render command is in flight.
(The host's queue and word are the model's: notes/assumptions/3.md.) -/
def Obligations.CmdAndTxtlenReadTheirValues : Prop :=
  ∀ (s : State) (rest : List HostOp), completionDue s = none →
    (s.hostQueue = .rd 4 0x030 :: rest →
        step s = .next { s with readData := s.cmd, hostQueue := rest, countdown := s.countdown - 1 })
    ∧ (s.hostQueue = .rd 4 0x03C :: rest → renderInFlight s = false →
        ∃ d : Word32, step s = .next { s with readData := d, hostQueue := rest, countdown := s.countdown - 1 }
          ∧ ∀ b < 32, d.getLsbD b = (s.txtlen.getLsbD b && decide (b < 10)))

/-- An access of a width other than four bytes, or at an offset that is not a multiple of 4, is refused. -/
def Obligations.MalformedAccessesAreRefused : Prop :=
  ∀ (s : State) (bytes off : Nat) (v : Word32) (rest : List HostOp),
    completionDue s = none → bytes ≠ 4 ∨ off % 4 ≠ 0 →
    s.hostQueue = .rd bytes off :: rest ∨ s.hostQueue = .wr bytes off v :: rest →
    step s = .refused .accessOutsideInterface

/-- The reset input gives every state of FXCORE its reset value and abandons a command in flight; the state at
power-on holds the same values. -/
def Obligations.ResetRestoresEveryResetValue : Prop :=
  (∀ (s : State) (rest : List HostOp), completionDue s = none → s.hostQueue = .reset :: rest →
      ∃ t, step s = .next t
        ∧ t.opa = 0 ∧ t.opb = 0 ∧ t.opc = 0 ∧ t.res = 0 ∧ t.cmd = 0x00000000#32 ∧ t.rcfg = 0x08000000#32
        ∧ statusWord t = 0x00000000#32 ∧ t.txtlen = 0 ∧ (∀ k < 512, t.txt.read k = 0x00#8) ∧ t.inflight = none)
    ∧ State.reset.opa = 0 ∧ State.reset.opb = 0 ∧ State.reset.opc = 0 ∧ State.reset.res = 0
    ∧ State.reset.cmd = 0x00000000#32 ∧ State.reset.rcfg = 0x08000000#32
    ∧ statusWord State.reset = 0x00000000#32 ∧ State.reset.txtlen = 0
    ∧ (∀ k < 512, State.reset.txt.read k = 0x00#8) ∧ State.reset.inflight = none
end

