-- ==== Sys2Proof/Laws/Arith.lean ====
section
/-! SUPPORT. What the exact shifts, the operand values and the truncating remainder are, each said once. -/

namespace Sys2Proof.Machine

theorem two_pow_pos (k : Nat) : (0 : Int) < ((2 ^ k : Nat) : Int) := by positivity

/-- floorShift is the floor: it is the one q with q · 2^k ≤ x < (q + 1) · 2^k. -/
theorem floorShift_eq_iff (x q : Int) (k : Nat) :
    floorShift x k = q ↔ q * ((2 ^ k : Nat) : Int) ≤ x ∧ x < (q + 1) * ((2 ^ k : Nat) : Int) := by
  have hp := two_pow_pos k
  unfold floorShift
  constructor
  · rintro rfl
    exact ⟨Int.ediv_mul_le x hp.ne', Int.lt_ediv_add_one_mul_self x hp⟩
  · rintro ⟨h1, h2⟩
    apply le_antisymm
    · exact Int.lt_add_one_iff.mp (Int.ediv_lt_of_lt_mul hp h2)
    · exact (Int.le_ediv_iff_mul_le hp).mpr h1

theorem bits_pos (w : Width) : 0 < w.bits := by cases w <;> decide

/-- An operand's value is representable at its width and signedness (00_scope.md section 5.2). -/
theorem val_representable (w : Width) (sg : Sign) (p : Word128) : Representable w sg (val w sg p) := by
  have hw := bits_pos w
  cases sg with
  | unsigned =>
    have := (p.setWidth w.bits).isLt
    simp only [Representable, minVal, maxVal, val]
    omega
  | signed =>
    have h1 := BitVec.le_toInt (p.setWidth w.bits)
    have h2 := BitVec.toInt_lt (x := p.setWidth w.bits)
    simp only [Representable, minVal, maxVal, val]
    push_cast
    omega

theorem minVal_nonpos (w : Width) (sg : Sign) : minVal w sg ≤ 0 := by
  cases sg <;> simp [minVal]

theorem maxVal_nonneg (w : Width) (sg : Sign) : 0 ≤ maxVal w sg := by
  cases w <;> cases sg <;> decide

/-- The special case of 42_divide_remainder.md R165 is the truncating remainder all the same: MIN rem −1 is 0. -/
@[simp] theorem remValue_eq (w : Width) (sg : Sign) (a b : Int) : remValue w sg a b = a.tmod b := by
  unfold remValue truncRem
  split
  · rename_i h
    rw [h.2.2]
    simp
  · rfl

end Sys2Proof.Machine
end

