-- ==== Sys2Proof/Laws/Encoding.lean ====
section
/-! SUPPORT. The fields of a packed command word, and the field codes read back. -/

namespace Sys2Proof

section pack
variable (rsv : BitVec 9) (f : Frac) (fl : BitVec 3) (sg : BitVec 1) (w : BitVec 3) (op : BitVec 6)

@[simp] theorem opField_packWord : opField (packWord rsv f fl sg w op) = op := by
  ext i hi
  simp [opField, packWord]
  grind

@[simp] theorem widthField_packWord : widthField (packWord rsv f fl sg w op) = w := by
  ext i hi
  simp [widthField, packWord]
  grind

@[simp] theorem signField_packWord : signField (packWord rsv f fl sg w op) = sg := by
  ext i hi
  simp [signField, packWord]
  grind

@[simp] theorem flavourField_packWord : flavourField (packWord rsv f fl sg w op) = fl := by
  ext i hi
  simp [flavourField, packWord]
  grind

@[simp] theorem fracField_packWord : fracField (packWord rsv f fl sg w op) = f := by
  ext i hi
  simp [fracField, packWord]
  grind

@[simp] theorem reservedField_packWord : reservedField (packWord rsv f fl sg w op) = rsv := by
  ext i hi
  simp [reservedField, packWord]
  grind

end pack

/-- Under the mask of OP, FL and the reserved bits, a packed word keeps those fields alone. -/
theorem packWord_and_mask (f : Frac) (sg : BitVec 1) (w : BitVec 3) (fl : BitVec 3) (op : BitVec 6) :
    packWord 0#9 f fl sg w op &&& 0xFF801C3F#32 = packWord 0#9 0#10 fl 0#1 0#3 op := by
  have hm : ∀ i < 32, (0xFF801C3F#32).getLsbD i = decide (i < 6 ∨ 10 ≤ i ∧ i < 13 ∨ 23 ≤ i) := by decide
  apply BitVec.eq_of_getLsbD_eq
  intro i hi
  rw [BitVec.getLsbD_and, hm i hi]
  simp [packWord]
  grind

@[simp] theorem opOf_opCode (op : Op) : opOf (opCode op) = some op := by cases op <;> rfl

@[simp] theorem widthOf_widthCode (w : Width) : widthOf (widthCode w) = some w := by cases w <;> rfl

@[simp] theorem flavourOf_flavourCode (fl : Flavour) : flavourOf (flavourCode fl) = some fl := by cases fl <;> rfl

@[simp] theorem signOf_signCode (sg : Sign) : signOf (signCode sg) = sg := by cases sg <;> rfl

/-- A command is the command of its own fields. -/
@[simp] theorem instrOf_fields (i : Instr) :
    instrOf i.fields.op i.fields.fl i.fields.w i.fields.sg i.fields.f = some i := by
  cases i <;> rfl

end Sys2Proof
end

