-- ==== Sys2Proof/Laws/State.lean ====
section
/-! SUPPORT. One lemma per field of each state update, so that no proof unfolds a record update. -/

namespace Sys2Proof.Machine

/-! ## complete -/

@[simp] theorem complete_opa (s : State) (c : Completion) : (complete s c).opa = s.opa := rfl
@[simp] theorem complete_opb (s : State) (c : Completion) : (complete s c).opb = s.opb := rfl
@[simp] theorem complete_opc (s : State) (c : Completion) : (complete s c).opc = s.opc := rfl
@[simp] theorem complete_res (s : State) (c : Completion) : (complete s c).res = c.res.getD s.res := rfl
@[simp] theorem complete_cmd (s : State) (c : Completion) : (complete s c).cmd = s.cmd := rfl
@[simp] theorem complete_rcfg (s : State) (c : Completion) : (complete s c).rcfg = s.rcfg := rfl
@[simp] theorem complete_done (s : State) (c : Completion) : (complete s c).done = true := rfl
@[simp] theorem complete_ov (s : State) (c : Completion) : (complete s c).ov = c.ov := rfl
@[simp] theorem complete_absent (s : State) (c : Completion) : (complete s c).absent = c.absent := rfl
@[simp] theorem complete_err (s : State) (c : Completion) : (complete s c).err = c.err := rfl
@[simp] theorem complete_cmdlost (s : State) (c : Completion) : (complete s c).cmdlost = s.cmdlost := rfl
@[simp] theorem complete_txtlen (s : State) (c : Completion) : (complete s c).txtlen = (c.text.map fun t => BitVec.ofNat 32 t.length).getD s.txtlen := rfl
@[simp] theorem complete_txt (s : State) (c : Completion) : (complete s c).txt = (c.text.map Memory.ofBytes).getD s.txt := rfl
@[simp] theorem complete_inflight (s : State) (c : Completion) : (complete s c).inflight = none := rfl
@[simp] theorem complete_countdown (s : State) (c : Completion) : (complete s c).countdown = s.countdown := rfl
@[simp] theorem complete_hostQueue (s : State) (c : Completion) : (complete s c).hostQueue = s.hostQueue := rfl
@[simp] theorem complete_readData (s : State) (c : Completion) : (complete s c).readData = s.readData := rfl
@[simp] theorem complete_freeTick (s : State) (c : Completion) : (complete s c).freeTick = s.freeTick := rfl

/-! ## latchCommand -/

@[simp] theorem latchCommand_opa (v : Word32) (s : State) : (latchCommand v s).opa = s.opa := rfl
@[simp] theorem latchCommand_opb (v : Word32) (s : State) : (latchCommand v s).opb = s.opb := rfl
@[simp] theorem latchCommand_opc (v : Word32) (s : State) : (latchCommand v s).opc = s.opc := rfl
@[simp] theorem latchCommand_res (v : Word32) (s : State) : (latchCommand v s).res = s.res := rfl
@[simp] theorem latchCommand_cmd (v : Word32) (s : State) : (latchCommand v s).cmd = v := rfl
@[simp] theorem latchCommand_rcfg (v : Word32) (s : State) : (latchCommand v s).rcfg = s.rcfg := rfl
@[simp] theorem latchCommand_done (v : Word32) (s : State) : (latchCommand v s).done = false := rfl
@[simp] theorem latchCommand_ov (v : Word32) (s : State) : (latchCommand v s).ov = false := rfl
@[simp] theorem latchCommand_absent (v : Word32) (s : State) : (latchCommand v s).absent = false := rfl
@[simp] theorem latchCommand_err (v : Word32) (s : State) : (latchCommand v s).err = .none := rfl
@[simp] theorem latchCommand_cmdlost (v : Word32) (s : State) : (latchCommand v s).cmdlost = s.cmdlost := rfl
@[simp] theorem latchCommand_txtlen (v : Word32) (s : State) : (latchCommand v s).txtlen = s.txtlen := rfl
@[simp] theorem latchCommand_txt (v : Word32) (s : State) : (latchCommand v s).txt = s.txt := rfl
@[simp] theorem latchCommand_inflight (v : Word32) (s : State) : (latchCommand v s).inflight = some (latchNow v s) := rfl
@[simp] theorem latchCommand_countdown (v : Word32) (s : State) : (latchCommand v s).countdown = s.countdown := rfl
@[simp] theorem latchCommand_hostQueue (v : Word32) (s : State) : (latchCommand v s).hostQueue = s.hostQueue := rfl
@[simp] theorem latchCommand_readData (v : Word32) (s : State) : (latchCommand v s).readData = s.readData := rfl
@[simp] theorem latchCommand_freeTick (v : Word32) (s : State) : (latchCommand v s).freeTick = s.freeTick := rfl

/-! ## accept -/

@[simp] theorem accept_opa (v : Word32) (s : State) : (accept v s).opa = s.opa := rfl
@[simp] theorem accept_opb (v : Word32) (s : State) : (accept v s).opb = s.opb := rfl
@[simp] theorem accept_opc (v : Word32) (s : State) : (accept v s).opc = s.opc := rfl
@[simp] theorem accept_res (v : Word32) (s : State) : (accept v s).res = s.res := rfl
@[simp] theorem accept_cmd (v : Word32) (s : State) : (accept v s).cmd = v := rfl
@[simp] theorem accept_rcfg (v : Word32) (s : State) : (accept v s).rcfg = s.rcfg := rfl
@[simp] theorem accept_done (v : Word32) (s : State) : (accept v s).done = false := rfl
@[simp] theorem accept_ov (v : Word32) (s : State) : (accept v s).ov = false := rfl
@[simp] theorem accept_absent (v : Word32) (s : State) : (accept v s).absent = false := rfl
@[simp] theorem accept_err (v : Word32) (s : State) : (accept v s).err = .none := rfl
@[simp] theorem accept_cmdlost (v : Word32) (s : State) : (accept v s).cmdlost = s.cmdlost := rfl
@[simp] theorem accept_txtlen (v : Word32) (s : State) : (accept v s).txtlen = s.txtlen := rfl
@[simp] theorem accept_txt (v : Word32) (s : State) : (accept v s).txt = s.txt := rfl
@[simp] theorem accept_inflight (v : Word32) (s : State) : (accept v s).inflight = some (latchNow v s) := rfl
@[simp] theorem accept_countdown (v : Word32) (s : State) : (accept v s).countdown = Config.fxLatency s.freeTick v s.opa s.opb s.opc s.rcfg := rfl
@[simp] theorem accept_hostQueue (v : Word32) (s : State) : (accept v s).hostQueue = s.hostQueue := rfl
@[simp] theorem accept_readData (v : Word32) (s : State) : (accept v s).readData = s.readData := rfl
@[simp] theorem accept_freeTick (v : Word32) (s : State) : (accept v s).freeTick = s.freeTick + 1 := rfl

/-! ## dropCommand -/

@[simp] theorem dropCommand_opa (s : State) : (dropCommand s).opa = s.opa := rfl
@[simp] theorem dropCommand_opb (s : State) : (dropCommand s).opb = s.opb := rfl
@[simp] theorem dropCommand_opc (s : State) : (dropCommand s).opc = s.opc := rfl
@[simp] theorem dropCommand_res (s : State) : (dropCommand s).res = s.res := rfl
@[simp] theorem dropCommand_cmd (s : State) : (dropCommand s).cmd = s.cmd := rfl
@[simp] theorem dropCommand_rcfg (s : State) : (dropCommand s).rcfg = s.rcfg := rfl
@[simp] theorem dropCommand_done (s : State) : (dropCommand s).done = s.done := rfl
@[simp] theorem dropCommand_ov (s : State) : (dropCommand s).ov = s.ov := rfl
@[simp] theorem dropCommand_absent (s : State) : (dropCommand s).absent = s.absent := rfl
@[simp] theorem dropCommand_err (s : State) : (dropCommand s).err = s.err := rfl
@[simp] theorem dropCommand_cmdlost (s : State) : (dropCommand s).cmdlost = true := rfl
@[simp] theorem dropCommand_txtlen (s : State) : (dropCommand s).txtlen = s.txtlen := rfl
@[simp] theorem dropCommand_txt (s : State) : (dropCommand s).txt = s.txt := rfl
@[simp] theorem dropCommand_inflight (s : State) : (dropCommand s).inflight = s.inflight := rfl
@[simp] theorem dropCommand_countdown (s : State) : (dropCommand s).countdown = s.countdown := rfl
@[simp] theorem dropCommand_hostQueue (s : State) : (dropCommand s).hostQueue = s.hostQueue := rfl
@[simp] theorem dropCommand_readData (s : State) : (dropCommand s).readData = s.readData := rfl
@[simp] theorem dropCommand_freeTick (s : State) : (dropCommand s).freeTick = s.freeTick := rfl

/-! ## passStep -/

@[simp] theorem passStep_opa (s : State) : (passStep s).opa = s.opa := rfl
@[simp] theorem passStep_opb (s : State) : (passStep s).opb = s.opb := rfl
@[simp] theorem passStep_opc (s : State) : (passStep s).opc = s.opc := rfl
@[simp] theorem passStep_res (s : State) : (passStep s).res = s.res := rfl
@[simp] theorem passStep_cmd (s : State) : (passStep s).cmd = s.cmd := rfl
@[simp] theorem passStep_rcfg (s : State) : (passStep s).rcfg = s.rcfg := rfl
@[simp] theorem passStep_done (s : State) : (passStep s).done = s.done := rfl
@[simp] theorem passStep_ov (s : State) : (passStep s).ov = s.ov := rfl
@[simp] theorem passStep_absent (s : State) : (passStep s).absent = s.absent := rfl
@[simp] theorem passStep_err (s : State) : (passStep s).err = s.err := rfl
@[simp] theorem passStep_cmdlost (s : State) : (passStep s).cmdlost = s.cmdlost := rfl
@[simp] theorem passStep_txtlen (s : State) : (passStep s).txtlen = s.txtlen := rfl
@[simp] theorem passStep_txt (s : State) : (passStep s).txt = s.txt := rfl
@[simp] theorem passStep_inflight (s : State) : (passStep s).inflight = s.inflight := rfl
@[simp] theorem passStep_countdown (s : State) : (passStep s).countdown = s.countdown - 1 := rfl
@[simp] theorem passStep_hostQueue (s : State) : (passStep s).hostQueue = s.hostQueue := rfl
@[simp] theorem passStep_readData (s : State) : (passStep s).readData = s.readData := rfl
@[simp] theorem passStep_freeTick (s : State) : (passStep s).freeTick = s.freeTick := rfl

/-! ## resetInput -/

@[simp] theorem resetInput_opa (s : State) : (resetInput s).opa = 0#128 := rfl
@[simp] theorem resetInput_opb (s : State) : (resetInput s).opb = 0#128 := rfl
@[simp] theorem resetInput_opc (s : State) : (resetInput s).opc = 0#128 := rfl
@[simp] theorem resetInput_res (s : State) : (resetInput s).res = 0#128 := rfl
@[simp] theorem resetInput_cmd (s : State) : (resetInput s).cmd = 0#32 := rfl
@[simp] theorem resetInput_rcfg (s : State) : (resetInput s).rcfg = 0x08000000#32 := rfl
@[simp] theorem resetInput_done (s : State) : (resetInput s).done = false := rfl
@[simp] theorem resetInput_ov (s : State) : (resetInput s).ov = false := rfl
@[simp] theorem resetInput_absent (s : State) : (resetInput s).absent = false := rfl
@[simp] theorem resetInput_err (s : State) : (resetInput s).err = .none := rfl
@[simp] theorem resetInput_cmdlost (s : State) : (resetInput s).cmdlost = false := rfl
@[simp] theorem resetInput_txtlen (s : State) : (resetInput s).txtlen = 0#32 := rfl
@[simp] theorem resetInput_txt (s : State) : (resetInput s).txt = [] := rfl
@[simp] theorem resetInput_inflight (s : State) : (resetInput s).inflight = none := rfl
@[simp] theorem resetInput_countdown (s : State) : (resetInput s).countdown = 0 := rfl
@[simp] theorem resetInput_hostQueue (s : State) : (resetInput s).hostQueue = s.hostQueue := rfl
@[simp] theorem resetInput_readData (s : State) : (resetInput s).readData = s.readData := rfl
@[simp] theorem resetInput_freeTick (s : State) : (resetInput s).freeTick = s.freeTick := rfl

/-! ## withFetchWord -/

@[simp] theorem withFetchWord_opa (s : State) (nbits w : Nat) : (s.withFetchWord nbits w).opa = s.opa := rfl
@[simp] theorem withFetchWord_opb (s : State) (nbits w : Nat) : (s.withFetchWord nbits w).opb = s.opb := rfl
@[simp] theorem withFetchWord_opc (s : State) (nbits w : Nat) : (s.withFetchWord nbits w).opc = s.opc := rfl
@[simp] theorem withFetchWord_res (s : State) (nbits w : Nat) : (s.withFetchWord nbits w).res = s.res := rfl
@[simp] theorem withFetchWord_cmd (s : State) (nbits w : Nat) : (s.withFetchWord nbits w).cmd = BitVec.ofNat 32 (w % 2 ^ nbits) := rfl
@[simp] theorem withFetchWord_rcfg (s : State) (nbits w : Nat) : (s.withFetchWord nbits w).rcfg = s.rcfg := rfl
@[simp] theorem withFetchWord_done (s : State) (nbits w : Nat) : (s.withFetchWord nbits w).done = false := rfl
@[simp] theorem withFetchWord_ov (s : State) (nbits w : Nat) : (s.withFetchWord nbits w).ov = false := rfl
@[simp] theorem withFetchWord_absent (s : State) (nbits w : Nat) : (s.withFetchWord nbits w).absent = false := rfl
@[simp] theorem withFetchWord_err (s : State) (nbits w : Nat) : (s.withFetchWord nbits w).err = .none := rfl
@[simp] theorem withFetchWord_cmdlost (s : State) (nbits w : Nat) : (s.withFetchWord nbits w).cmdlost = s.cmdlost := rfl
@[simp] theorem withFetchWord_txtlen (s : State) (nbits w : Nat) : (s.withFetchWord nbits w).txtlen = s.txtlen := rfl
@[simp] theorem withFetchWord_txt (s : State) (nbits w : Nat) : (s.withFetchWord nbits w).txt = s.txt := rfl
@[simp] theorem withFetchWord_inflight (s : State) (nbits w : Nat) : (s.withFetchWord nbits w).inflight = some (latchNow (BitVec.ofNat 32 (w % 2 ^ nbits)) s) := rfl
@[simp] theorem withFetchWord_countdown (s : State) (nbits w : Nat) : (s.withFetchWord nbits w).countdown = 0 := rfl
@[simp] theorem withFetchWord_hostQueue (s : State) (nbits w : Nat) : (s.withFetchWord nbits w).hostQueue = s.hostQueue := rfl
@[simp] theorem withFetchWord_readData (s : State) (nbits w : Nat) : (s.withFetchWord nbits w).readData = s.readData := rfl
@[simp] theorem withFetchWord_freeTick (s : State) (nbits w : Nat) : (s.withFetchWord nbits w).freeTick = s.freeTick := rfl

/-! ## latchNow -/

@[simp] theorem latchNow_cmd (v : Word32) (s : State) : (latchNow v s).cmd = v := rfl
@[simp] theorem latchNow_opa (v : Word32) (s : State) : (latchNow v s).opa = s.opa := rfl
@[simp] theorem latchNow_opb (v : Word32) (s : State) : (latchNow v s).opb = s.opb := rfl
@[simp] theorem latchNow_opc (v : Word32) (s : State) : (latchNow v s).opc = s.opc := rfl
@[simp] theorem latchNow_rcfg (v : Word32) (s : State) : (latchNow v s).rcfg = s.rcfg := rfl

end Sys2Proof.Machine
end

