-- ==== Sys2Proof/Laws/Ops.lean ====
section
/-! SUPPORT. One lemma per shared operation that says once what it can do: the completion step, the access check, the
host's reads and writes, and the text memory. -/

namespace Sys2Proof.Machine

/-! ## The completion step -/

theorem onLatch_of_inflight {s : State} {l : Latch} (h : s.inflight = some l) (g : Latch → Completion) :
    onLatch s g = .next (complete s (g l)) := by
  simp [onLatch, h]

/-- A completion step that answers a next state completes the latch in flight. -/
theorem onLatch_eq_next {s t : State} {g : Latch → Completion} (h : onLatch s g = .next t) :
    ∃ l, s.inflight = some l ∧ t = complete s (g l) := by
  unfold onLatch at h
  split at h
  · exact ⟨_, ‹_›, by simpa using h.symm⟩
  · cases h

theorem completionDue_eq_some {s : State} {l : Latch} :
    completionDue s = some l ↔ s.inflight = some l ∧ s.countdown = 0 := by
  unfold completionDue
  cases hs : s.inflight <;> simp [and_comm]

theorem completionDue_eq_none {s : State} :
    completionDue s = none ↔ s.inflight = none ∨ s.countdown ≠ 0 := by
  unfold completionDue
  cases hs : s.inflight <;> simp

/-- What each command's completion writes, as a function of the latch alone (10_state.md R41). -/
def resultOf (i : Instr) (l : Latch) : Completion :=
  let p := i.fields
  match p.op with
  | .mul => applyFlavour p.fl p.w p.sg (mulOutcome p.w p.sg p.f l)
  | .div => applyFlavour p.fl p.w p.sg (divOutcome p.w p.sg p.f l)
  | .muladd => applyFlavour p.fl p.w p.sg (muladdOutcome p.w p.sg p.f l)
  | .rem => applyFlavour p.fl p.w p.sg (remOutcome p.w p.sg p.f l)
  | .remeu => applyFlavour p.fl p.w p.sg (remeuOutcome p.w p.sg p.f l)
  | .remi => applyFlavour p.fl p.w p.sg (remiOutcome p.w p.sg p.f l)
  | .remeui => applyFlavour p.fl p.w p.sg (remeuiOutcome p.w p.sg p.f l)
  | .sqrt =>
    if p.fl = .checked then sqrtChecked p.w p.sg (sqrtOutcome p.w p.sg p.f l)
    else sqrtUnchecked p.w p.sg (sqrtOutcome p.w p.sg p.f l)
  | .rdec => renderCompletion .rdec .dec p.w p.sg p.f l
  | .rbin => renderCompletion .rbin .bin p.w p.sg p.f l
  | .roct => renderCompletion .roct .oct p.w p.sg p.f l
  | .rhexl => renderCompletion .rhexl .hexLower p.w p.sg p.f l
  | .rhexu => renderCompletion .rhexu .hexUpper p.w p.sg p.f l

/-- Every meaning is the completion step of its result: the one fact about `exec` the frames and invariants use. -/
theorem exec_eq_onLatch (i : Instr) (s : State) : exec i s = onLatch s (resultOf i) := by
  cases i <;> rfl

theorem exec_of_inflight {s : State} {l : Latch} (h : s.inflight = some l) (i : Instr) :
    exec i s = .next (complete s (resultOf i l)) := by
  rw [exec_eq_onLatch, onLatch_of_inflight h]

/-! ## What an outcome writes -/

@[simp] theorem writeResult_eq (w : Width) (sg : Sign) (x : Int) :
    writeResult w sg x = { res := some (resultPattern w sg x) } := rfl

@[simp] theorem applyFlavour_err (fl : Flavour) (w : Width) (sg : Sign) (e : ErrCode) :
    applyFlavour fl w sg (.err e) = raiseError e := rfl

theorem applyFlavour_ok_representable {w : Width} {sg : Sign} {x : Int} (h : Representable w sg x) (fl : Flavour) :
    applyFlavour fl w sg (.ok x) = writeResult w sg x := by
  simp only [applyFlavour, if_pos h]

theorem applyFlavour_ok_overflow {w : Width} {sg : Sign} {x : Int} (h : ¬ Representable w sg x) (fl : Flavour) :
    applyFlavour fl w sg (.ok x) = overflowed fl w sg x := by
  simp only [applyFlavour, if_neg h]

/-- No arithmetic outcome writes a text (10_state.md R41). -/
@[simp] theorem applyFlavour_text (fl : Flavour) (w : Width) (sg : Sign) (o : ArithOutcome) :
    (applyFlavour fl w sg o).text = none := by
  cases o <;> cases fl <;> simp only [applyFlavour] <;> try split
  all_goals rfl

/-! ## Accesses -/

theorem accessRefusal_eq_none {bytes off : Nat} : accessRefusal bytes off = none ↔ wellFormedAccess bytes off := by
  unfold accessRefusal wellFormedAccess windowSize
  split <;> [skip; split] <;> simp <;> omega

theorem hostRead_of_wellFormed {bytes off : Nat} (h : wellFormedAccess bytes off) (s : State) :
    hostRead bytes off s = .next (readReg s (regAt off)) := by
  simp [hostRead, accessRefusal_eq_none.mpr h]

theorem hostWrite_of_wellFormed {bytes off : Nat} (h : wellFormedAccess bytes off) (v : Word32) (s : State) :
    hostWrite bytes off v s = .next (writeReg s (regAt off) v) := by
  simp [hostWrite, accessRefusal_eq_none.mpr h]

/-- A read changes the host's word and the free values' counter alone (20_memory.md R71). -/
theorem readReg_eq (s : State) (r : RegWord) :
    ∃ d n, readReg s r = { s with readData := d, freeTick := n } := by
  unfold readReg
  split
  · exact ⟨_, _, rfl⟩
  · exact ⟨_, s.freeTick, rfl⟩

/-- What a write of the window can change (20_memory.md R64, R67). -/
theorem writeReg_cases (s : State) (r : RegWord) (v : Word32) :
    (∃ k, writeReg s r v = { s with opa := setWordOf s.opa k v })
      ∨ (∃ k, writeReg s r v = { s with opb := setWordOf s.opb k v })
      ∨ (∃ k, writeReg s r v = { s with opc := setWordOf s.opc k v })
      ∨ (s.inflight = none ∧ writeReg s r v = accept v s)
      ∨ (s.inflight.isSome ∧ writeReg s r v = dropCommand s)
      ∨ writeReg s r v = { s with rcfg := v &&& rcfgMask }
      ∨ writeReg s r v = { s with cmdlost := false }
      ∨ writeReg s r v = s := by
  cases r with
  | opa k => exact .inl ⟨k, rfl⟩
  | opb k => exact .inr (.inl ⟨k, rfl⟩)
  | opc k => exact .inr (.inr (.inl ⟨k, rfl⟩))
  | cmd =>
    cases h : s.inflight with
    | none => exact .inr (.inr (.inr (.inl ⟨rfl, by simp [writeReg, issueCommand, busy, h]⟩)))
    | some l => exact .inr (.inr (.inr (.inr (.inl ⟨rfl, by simp [writeReg, issueCommand, busy, h]⟩))))
  | rcfg => exact .inr (.inr (.inr (.inr (.inr (.inl rfl)))))
  | status =>
    by_cases hv : v.getLsbD 8 = true
    · exact .inr (.inr (.inr (.inr (.inr (.inr (.inl (by simp only [writeReg, if_pos hv])))))))
    · exact .inr (.inr (.inr (.inr (.inr (.inr (.inr (by simp only [writeReg, if_neg hv])))))))
  | txtlen => exact .inr (.inr (.inr (.inr (.inr (.inr (.inr rfl))))))
  | res k => exact .inr (.inr (.inr (.inr (.inr (.inr (.inr rfl))))))
  | txt j => exact .inr (.inr (.inr (.inr (.inr (.inr (.inr rfl))))))
  | reserved => exact .inr (.inr (.inr (.inr (.inr (.inr (.inr rfl))))))

/-! ## The text memory -/

theorem read_of_wfFrom {m : Memory} {lo k : Nat} (h : Memory.wfFrom lo m = true) (hk : k < lo) : m.read k = 0#8 := by
  induction m generalizing lo with
  | nil => rfl
  | cons c m ih =>
    obtain ⟨i, b⟩ := c
    simp only [Memory.wfFrom, Bool.and_eq_true, decide_eq_true_eq] at h
    simp only [Memory.read, if_neg (show k ≠ i by omega)]
    exact ih h.2 (by omega)

theorem ofBytesFrom_wfFrom (bs : List Byte) {lo k : Nat} (hlo : lo ≤ k) (h : k + bs.length ≤ txtSize) :
    Memory.wfFrom lo (Memory.ofBytesFrom k bs) = true := by
  induction bs generalizing lo k with
  | nil => rfl
  | cons b bs ih =>
    simp only [List.length_cons] at h
    simp only [Memory.ofBytesFrom]
    split
    · exact ih (by omega) (by omega)
    · simp only [Memory.wfFrom, Bool.and_eq_true, decide_eq_true_eq]
      exact ⟨⟨⟨hlo, by omega⟩, ‹_›⟩, ih (by omega) (by omega)⟩

/-- Loading a text that fits gives a memory in canonical form: the one operation that makes a text memory keeps the
form. -/
theorem ofBytes_wf {text : List Byte} (h : text.length ≤ txtSize) : (Memory.ofBytes text).wf = true :=
  ofBytesFrom_wfFrom text (Nat.le_refl 0) (by omega)

theorem reset_txt_wf : State.reset.txt.wf = true := rfl

theorem read_ofBytesFrom (bs : List Byte) (k j : Nat) :
    (Memory.ofBytesFrom k bs).read j = if k ≤ j then bs.getD (j - k) 0#8 else 0#8 := by
  induction bs generalizing k with
  | nil => simp [Memory.ofBytesFrom, Memory.read]
  | cons b bs ih =>
    have hs : ∀ h : k + 1 ≤ j, (b :: bs).getD (j - k) 0#8 = bs.getD (j - (k + 1)) 0#8 := fun h => by
      rw [show j - k = (j - (k + 1)) + 1 by omega]; rfl
    simp only [Memory.ofBytesFrom]
    by_cases hb : b = 0#8
    · rw [if_pos hb, ih]
      by_cases hj : k + 1 ≤ j
      · rw [if_pos hj, if_pos (by omega), hs hj]
      · rw [if_neg hj]
        by_cases hk : k ≤ j
        · obtain rfl : j = k := by omega
          simp [hb]
        · rw [if_neg hk]
    · rw [if_neg hb]
      simp only [Memory.read]
      by_cases hk : j = k
      · subst hk; simp
      · rw [if_neg hk, ih]
        by_cases hj : k + 1 ≤ j
        · rw [if_pos hj, if_pos (by omega), hs hj]
        · rw [if_neg hj, if_neg (by omega)]

/-- Byte `j` of a loaded text: the text's byte, and 0x00 beyond it (46_render.md R274). -/
@[simp] theorem read_ofBytes (text : List Byte) (j : Nat) : (Memory.ofBytes text).read j = text.getD j 0#8 := by
  simp [Memory.ofBytes, read_ofBytesFrom]

end Sys2Proof.Machine
end

