-- ==== Sys2Proof/Laws/PerInstr.lean ====
section
/-! SUPPORT. The family FixedBits: every command's word holds the fixed bits of its row of spec/opcode_table.json. -/

namespace Sys2Proof.Laws.FixedBits

/-- The "match" value of a command's row of spec/opcode_table.json. -/
def rowMatch : Instr → Word32
  | .mul _ _ _ => 0x00000001#32
  | .mulC _ _ _ => 0x00000401#32
  | .mulW _ _ _ => 0x00000801#32
  | .mulS _ _ _ => 0x00000C01#32
  | .mulO _ _ _ => 0x00001001#32
  | .div _ _ _ => 0x00000002#32
  | .divC _ _ _ => 0x00000402#32
  | .divW _ _ _ => 0x00000802#32
  | .divS _ _ _ => 0x00000C02#32
  | .divO _ _ _ => 0x00001002#32
  | .muladd _ _ _ => 0x00000003#32
  | .muladdC _ _ _ => 0x00000403#32
  | .muladdW _ _ _ => 0x00000803#32
  | .muladdS _ _ _ => 0x00000C03#32
  | .muladdO _ _ _ => 0x00001003#32
  | .rem _ _ _ => 0x00000004#32
  | .remC _ _ _ => 0x00000404#32
  | .remW _ _ _ => 0x00000804#32
  | .remS _ _ _ => 0x00000C04#32
  | .remO _ _ _ => 0x00001004#32
  | .remeu _ _ _ => 0x00000005#32
  | .remeuC _ _ _ => 0x00000405#32
  | .remeuW _ _ _ => 0x00000805#32
  | .remeuS _ _ _ => 0x00000C05#32
  | .remeuO _ _ _ => 0x00001005#32
  | .remi _ _ _ => 0x00000006#32
  | .remiC _ _ _ => 0x00000406#32
  | .remiW _ _ _ => 0x00000806#32
  | .remiS _ _ _ => 0x00000C06#32
  | .remiO _ _ _ => 0x00001006#32
  | .remeui _ _ _ => 0x00000007#32
  | .remeuiC _ _ _ => 0x00000407#32
  | .remeuiW _ _ _ => 0x00000807#32
  | .remeuiS _ _ _ => 0x00000C07#32
  | .remeuiO _ _ _ => 0x00001007#32
  | .sqrt _ _ _ => 0x00000008#32
  | .sqrtC _ _ _ => 0x00000408#32
  | .rdec _ _ _ => 0x00000010#32
  | .rbin _ _ _ => 0x00000011#32
  | .roct _ _ _ => 0x00000012#32
  | .rhexl _ _ _ => 0x00000013#32
  | .rhexu _ _ _ => 0x00000014#32

/-- Under the row's "mask" (OP, FL and the reserved bits), the word of the command is the row's "match". -/
def Statement (i : Instr) : Prop := encode i &&& 0xFF801C3F#32 = rowMatch i

/-- The statement of a command from the fixed part of its word. -/
theorem of_fixed {i : Instr} (h : packWord 0#9 0#10 (flavourCode i.fields.fl) 0#1 0#3 (opCode i.fields.op) = rowMatch i) :
    Statement i :=
  (packWord_and_mask _ _ _ _ _).trans h

theorem mul (w : Width) (sg : Sign) (f : Frac) : Statement (.mul w sg f) :=
  of_fixed (show packWord 0#9 0#10 (flavourCode .unchecked) 0#1 0#3 (opCode .mul) = 0x00000001#32 by decide)
theorem mulC (w : Width) (sg : Sign) (f : Frac) : Statement (.mulC w sg f) :=
  of_fixed (show packWord 0#9 0#10 (flavourCode .checked) 0#1 0#3 (opCode .mul) = 0x00000401#32 by decide)
theorem mulW (w : Width) (sg : Sign) (f : Frac) : Statement (.mulW w sg f) :=
  of_fixed (show packWord 0#9 0#10 (flavourCode .wrapping) 0#1 0#3 (opCode .mul) = 0x00000801#32 by decide)
theorem mulS (w : Width) (sg : Sign) (f : Frac) : Statement (.mulS w sg f) :=
  of_fixed (show packWord 0#9 0#10 (flavourCode .saturating) 0#1 0#3 (opCode .mul) = 0x00000C01#32 by decide)
theorem mulO (w : Width) (sg : Sign) (f : Frac) : Statement (.mulO w sg f) :=
  of_fixed (show packWord 0#9 0#10 (flavourCode .overflowing) 0#1 0#3 (opCode .mul) = 0x00001001#32 by decide)
theorem div (w : Width) (sg : Sign) (f : Frac) : Statement (.div w sg f) :=
  of_fixed (show packWord 0#9 0#10 (flavourCode .unchecked) 0#1 0#3 (opCode .div) = 0x00000002#32 by decide)
theorem divC (w : Width) (sg : Sign) (f : Frac) : Statement (.divC w sg f) :=
  of_fixed (show packWord 0#9 0#10 (flavourCode .checked) 0#1 0#3 (opCode .div) = 0x00000402#32 by decide)
theorem divW (w : Width) (sg : Sign) (f : Frac) : Statement (.divW w sg f) :=
  of_fixed (show packWord 0#9 0#10 (flavourCode .wrapping) 0#1 0#3 (opCode .div) = 0x00000802#32 by decide)
theorem divS (w : Width) (sg : Sign) (f : Frac) : Statement (.divS w sg f) :=
  of_fixed (show packWord 0#9 0#10 (flavourCode .saturating) 0#1 0#3 (opCode .div) = 0x00000C02#32 by decide)
theorem divO (w : Width) (sg : Sign) (f : Frac) : Statement (.divO w sg f) :=
  of_fixed (show packWord 0#9 0#10 (flavourCode .overflowing) 0#1 0#3 (opCode .div) = 0x00001002#32 by decide)
theorem muladd (w : Width) (sg : Sign) (f : Frac) : Statement (.muladd w sg f) :=
  of_fixed (show packWord 0#9 0#10 (flavourCode .unchecked) 0#1 0#3 (opCode .muladd) = 0x00000003#32 by decide)
theorem muladdC (w : Width) (sg : Sign) (f : Frac) : Statement (.muladdC w sg f) :=
  of_fixed (show packWord 0#9 0#10 (flavourCode .checked) 0#1 0#3 (opCode .muladd) = 0x00000403#32 by decide)
theorem muladdW (w : Width) (sg : Sign) (f : Frac) : Statement (.muladdW w sg f) :=
  of_fixed (show packWord 0#9 0#10 (flavourCode .wrapping) 0#1 0#3 (opCode .muladd) = 0x00000803#32 by decide)
theorem muladdS (w : Width) (sg : Sign) (f : Frac) : Statement (.muladdS w sg f) :=
  of_fixed (show packWord 0#9 0#10 (flavourCode .saturating) 0#1 0#3 (opCode .muladd) = 0x00000C03#32 by decide)
theorem muladdO (w : Width) (sg : Sign) (f : Frac) : Statement (.muladdO w sg f) :=
  of_fixed (show packWord 0#9 0#10 (flavourCode .overflowing) 0#1 0#3 (opCode .muladd) = 0x00001003#32 by decide)
theorem rem (w : Width) (sg : Sign) (f : Frac) : Statement (.rem w sg f) :=
  of_fixed (show packWord 0#9 0#10 (flavourCode .unchecked) 0#1 0#3 (opCode .rem) = 0x00000004#32 by decide)
theorem remC (w : Width) (sg : Sign) (f : Frac) : Statement (.remC w sg f) :=
  of_fixed (show packWord 0#9 0#10 (flavourCode .checked) 0#1 0#3 (opCode .rem) = 0x00000404#32 by decide)
theorem remW (w : Width) (sg : Sign) (f : Frac) : Statement (.remW w sg f) :=
  of_fixed (show packWord 0#9 0#10 (flavourCode .wrapping) 0#1 0#3 (opCode .rem) = 0x00000804#32 by decide)
theorem remS (w : Width) (sg : Sign) (f : Frac) : Statement (.remS w sg f) :=
  of_fixed (show packWord 0#9 0#10 (flavourCode .saturating) 0#1 0#3 (opCode .rem) = 0x00000C04#32 by decide)
theorem remO (w : Width) (sg : Sign) (f : Frac) : Statement (.remO w sg f) :=
  of_fixed (show packWord 0#9 0#10 (flavourCode .overflowing) 0#1 0#3 (opCode .rem) = 0x00001004#32 by decide)
theorem remeu (w : Width) (sg : Sign) (f : Frac) : Statement (.remeu w sg f) :=
  of_fixed (show packWord 0#9 0#10 (flavourCode .unchecked) 0#1 0#3 (opCode .remeu) = 0x00000005#32 by decide)
theorem remeuC (w : Width) (sg : Sign) (f : Frac) : Statement (.remeuC w sg f) :=
  of_fixed (show packWord 0#9 0#10 (flavourCode .checked) 0#1 0#3 (opCode .remeu) = 0x00000405#32 by decide)
theorem remeuW (w : Width) (sg : Sign) (f : Frac) : Statement (.remeuW w sg f) :=
  of_fixed (show packWord 0#9 0#10 (flavourCode .wrapping) 0#1 0#3 (opCode .remeu) = 0x00000805#32 by decide)
theorem remeuS (w : Width) (sg : Sign) (f : Frac) : Statement (.remeuS w sg f) :=
  of_fixed (show packWord 0#9 0#10 (flavourCode .saturating) 0#1 0#3 (opCode .remeu) = 0x00000C05#32 by decide)
theorem remeuO (w : Width) (sg : Sign) (f : Frac) : Statement (.remeuO w sg f) :=
  of_fixed (show packWord 0#9 0#10 (flavourCode .overflowing) 0#1 0#3 (opCode .remeu) = 0x00001005#32 by decide)
theorem remi (w : Width) (sg : Sign) (f : Frac) : Statement (.remi w sg f) :=
  of_fixed (show packWord 0#9 0#10 (flavourCode .unchecked) 0#1 0#3 (opCode .remi) = 0x00000006#32 by decide)
theorem remiC (w : Width) (sg : Sign) (f : Frac) : Statement (.remiC w sg f) :=
  of_fixed (show packWord 0#9 0#10 (flavourCode .checked) 0#1 0#3 (opCode .remi) = 0x00000406#32 by decide)
theorem remiW (w : Width) (sg : Sign) (f : Frac) : Statement (.remiW w sg f) :=
  of_fixed (show packWord 0#9 0#10 (flavourCode .wrapping) 0#1 0#3 (opCode .remi) = 0x00000806#32 by decide)
theorem remiS (w : Width) (sg : Sign) (f : Frac) : Statement (.remiS w sg f) :=
  of_fixed (show packWord 0#9 0#10 (flavourCode .saturating) 0#1 0#3 (opCode .remi) = 0x00000C06#32 by decide)
theorem remiO (w : Width) (sg : Sign) (f : Frac) : Statement (.remiO w sg f) :=
  of_fixed (show packWord 0#9 0#10 (flavourCode .overflowing) 0#1 0#3 (opCode .remi) = 0x00001006#32 by decide)
theorem remeui (w : Width) (sg : Sign) (f : Frac) : Statement (.remeui w sg f) :=
  of_fixed (show packWord 0#9 0#10 (flavourCode .unchecked) 0#1 0#3 (opCode .remeui) = 0x00000007#32 by decide)
theorem remeuiC (w : Width) (sg : Sign) (f : Frac) : Statement (.remeuiC w sg f) :=
  of_fixed (show packWord 0#9 0#10 (flavourCode .checked) 0#1 0#3 (opCode .remeui) = 0x00000407#32 by decide)
theorem remeuiW (w : Width) (sg : Sign) (f : Frac) : Statement (.remeuiW w sg f) :=
  of_fixed (show packWord 0#9 0#10 (flavourCode .wrapping) 0#1 0#3 (opCode .remeui) = 0x00000807#32 by decide)
theorem remeuiS (w : Width) (sg : Sign) (f : Frac) : Statement (.remeuiS w sg f) :=
  of_fixed (show packWord 0#9 0#10 (flavourCode .saturating) 0#1 0#3 (opCode .remeui) = 0x00000C07#32 by decide)
theorem remeuiO (w : Width) (sg : Sign) (f : Frac) : Statement (.remeuiO w sg f) :=
  of_fixed (show packWord 0#9 0#10 (flavourCode .overflowing) 0#1 0#3 (opCode .remeui) = 0x00001007#32 by decide)
theorem sqrt (w : Width) (sg : Sign) (f : Frac) : Statement (.sqrt w sg f) :=
  of_fixed (show packWord 0#9 0#10 (flavourCode .unchecked) 0#1 0#3 (opCode .sqrt) = 0x00000008#32 by decide)
theorem sqrtC (w : Width) (sg : Sign) (f : Frac) : Statement (.sqrtC w sg f) :=
  of_fixed (show packWord 0#9 0#10 (flavourCode .checked) 0#1 0#3 (opCode .sqrt) = 0x00000408#32 by decide)
theorem rdec (w : Width) (sg : Sign) (f : Frac) : Statement (.rdec w sg f) :=
  of_fixed (show packWord 0#9 0#10 (flavourCode .unchecked) 0#1 0#3 (opCode .rdec) = 0x00000010#32 by decide)
theorem rbin (w : Width) (sg : Sign) (f : Frac) : Statement (.rbin w sg f) :=
  of_fixed (show packWord 0#9 0#10 (flavourCode .unchecked) 0#1 0#3 (opCode .rbin) = 0x00000011#32 by decide)
theorem roct (w : Width) (sg : Sign) (f : Frac) : Statement (.roct w sg f) :=
  of_fixed (show packWord 0#9 0#10 (flavourCode .unchecked) 0#1 0#3 (opCode .roct) = 0x00000012#32 by decide)
theorem rhexl (w : Width) (sg : Sign) (f : Frac) : Statement (.rhexl w sg f) :=
  of_fixed (show packWord 0#9 0#10 (flavourCode .unchecked) 0#1 0#3 (opCode .rhexl) = 0x00000013#32 by decide)
theorem rhexu (w : Width) (sg : Sign) (f : Frac) : Statement (.rhexu w sg f) :=
  of_fixed (show packWord 0#9 0#10 (flavourCode .unchecked) 0#1 0#3 (opCode .rhexu) = 0x00000014#32 by decide)

end Sys2Proof.Laws.FixedBits
end

