-- ==== Sys2Proof/Tests/Slice0.lean ====
section
/-! SUPPORT. Tests of the model: values from the spec's vectors (95_test_vectors.md) or worked out by hand from the rule
named, and for every statement with hypotheses a concrete state and operands that meet them. -/

namespace Sys2Proof.Machine.Tests

/-! ## Helpers -/

/-- An idle machine with the given operands and RCFG, and a RES that no test's command writes. -/
def idle (a b c : Word128) (rcfg : Word32 := 0x08000000#32) : State :=
  { State.reset with opa := a, opb := b, opc := c, rcfg := rcfg, res := 0x5A#128 }

/-- The next state of an outcome, if it is one. -/
def nextOf (o : Host.Outcome State Fault Refusal) : Option State :=
  match o with
  | .next s => some s
  | .fault _ => none
  | .refused _ => none

/-- RES and STATUS after the completion of a command word on the given operands. -/
def resultAfter (v : Word32) (a b c : Word128) : Option (Word128 × Word32) :=
  (nextOf (step ((idle a b c).withFetchWord 32 v.toNat))).map fun t => (t.res, statusWord t)

/-- TXTLEN, and the bytes of TXT up to it, after a render command. -/
def textAfter (v : Word32) (a : Word128) (rcfg : Word32) : Option (Nat × List Byte) :=
  (nextOf (step ((idle a 0 0 rcfg).withFetchWord 32 v.toNat))).map fun t =>
    (t.txtlen.toNat, (List.range t.txtlen.toNat).map t.txt.read)

/-- The bytes of an ASCII text. -/
def ascii (s : String) : List Byte := s.toList.map fun c => BitVec.ofNat 8 c.toNat

/-- A machine with the command of a latch in flight, `k` steps before its completion step, and host actions to do. -/
def flying (l : Latch) (k : Nat) (ops : List HostOp := []) : State :=
  { State.reset with cmd := l.cmd, inflight := some l, countdown := k, hostQueue := ops }

/-- An idle machine with host actions to do. -/
def hosted (ops : List HostOp) : State := { State.reset with hostQueue := ops }

/-- A latch with no format configuration of its own. -/
def latch (v : Word32) (a b c : Word128) : Latch := { cmd := v, opa := a, opb := b, opc := c, rcfg := 0x08000000#32 }

/-! ## Well-formedness (30_encoding.md R100) -/

theorem test_wellFormed_ranges :
    (Instr.muladd .w8 .unsigned (BitVec.ofInt 10 (-8))).wellFormed = true
      ∧ (Instr.muladd .w128 .signed 256#10).wellFormed = true
      ∧ (Instr.mul .w8 .signed 0#10).wellFormed = true ∧ (Instr.rdec .w128 .signed 128#10).wellFormed = true := by
  decide

/-- MULADD: f below −N, and f above 2N. -/
theorem test_illFormed_muladd :
    (Instr.muladd .w8 .unsigned (BitVec.ofInt 10 (-9))).wellFormed = false
      ∧ (Instr.muladdO .w8 .unsigned 17#10).wellFormed = false := by
  decide

/-- Every other command: f below 0, and f above N. -/
theorem test_illFormed_others :
    (Instr.mul .w8 .unsigned (BitVec.ofInt 10 (-1))).wellFormed = false
      ∧ (Instr.mul .w8 .unsigned 9#10).wellFormed = false
      ∧ (Instr.remeuiC .w128 .signed 129#10).wellFormed = false
      ∧ (Instr.sqrt .w64 .signed (BitVec.ofInt 10 (-512))).wellFormed = false
      ∧ (Instr.rdec .w16 .unsigned 17#10).wellFormed = false := by
  decide

/-! ## Decoding: each word written out as RSV ++ FRAC ++ FL ++ SG ++ W ++ OP (30_encoding.md R91 to R96) -/

theorem test_decode_mul :
    decode (0b000000000#9 ++ 0b0000001000#10 ++ 0b000#3 ++ 0b0#1 ++ 0b001#3 ++ 0b000001#6)
        = .ok (.mul .w16 .unsigned 8#10)
      ∧ decode (0b000000000#9 ++ 0b0010000000#10 ++ 0b001#3 ++ 0b0#1 ++ 0b100#3 ++ 0b000001#6)
        = .ok (.mulC .w128 .unsigned 128#10)
      ∧ decode (0b000000000#9 ++ 0b0000000000#10 ++ 0b010#3 ++ 0b1#1 ++ 0b010#3 ++ 0b000001#6)
        = .ok (.mulW .w32 .signed 0#10)
      ∧ decode (0b000000000#9 ++ 0b0000000011#10 ++ 0b011#3 ++ 0b1#1 ++ 0b000#3 ++ 0b000001#6)
        = .ok (.mulS .w8 .signed 3#10)
      ∧ decode (0b000000000#9 ++ 0b0000100000#10 ++ 0b100#3 ++ 0b0#1 ++ 0b011#3 ++ 0b000001#6)
        = .ok (.mulO .w64 .unsigned 32#10) := by
  decide

theorem test_decode_div :
    decode (0b000000000#9 ++ 0b0000010000#10 ++ 0b000#3 ++ 0b0#1 ++ 0b001#3 ++ 0b000010#6)
        = .ok (.div .w16 .unsigned 16#10)
      ∧ decode (0b000000000#9 ++ 0b0000000000#10 ++ 0b001#3 ++ 0b1#1 ++ 0b100#3 ++ 0b000010#6)
        = .ok (.divC .w128 .signed 0#10)
      ∧ decode (0b000000000#9 ++ 0b0000001001#10 ++ 0b010#3 ++ 0b1#1 ++ 0b010#3 ++ 0b000010#6)
        = .ok (.divW .w32 .signed 9#10)
      ∧ decode (0b000000000#9 ++ 0b0000000100#10 ++ 0b011#3 ++ 0b0#1 ++ 0b000#3 ++ 0b000010#6)
        = .ok (.divS .w8 .unsigned 4#10)
      ∧ decode (0b000000000#9 ++ 0b0001000000#10 ++ 0b100#3 ++ 0b0#1 ++ 0b011#3 ++ 0b000010#6)
        = .ok (.divO .w64 .unsigned 64#10) := by
  decide

theorem test_decode_muladd :
    decode (0b000000000#9 ++ 0b1111110000#10 ++ 0b000#3 ++ 0b1#1 ++ 0b001#3 ++ 0b000011#6)
        = .ok (.muladd .w16 .signed (BitVec.ofInt 10 (-16)))
      ∧ decode (0b000000000#9 ++ 0b0100000000#10 ++ 0b001#3 ++ 0b1#1 ++ 0b100#3 ++ 0b000011#6)
        = .ok (.muladdC .w128 .signed 256#10)
      ∧ decode (0b000000000#9 ++ 0b1111111111#10 ++ 0b010#3 ++ 0b0#1 ++ 0b010#3 ++ 0b000011#6)
        = .ok (.muladdW .w32 .unsigned (BitVec.ofInt 10 (-1)))
      ∧ decode (0b000000000#9 ++ 0b0000000101#10 ++ 0b011#3 ++ 0b0#1 ++ 0b000#3 ++ 0b000011#6)
        = .ok (.muladdS .w8 .unsigned 5#10)
      ∧ decode (0b000000000#9 ++ 0b1111111101#10 ++ 0b100#3 ++ 0b1#1 ++ 0b011#3 ++ 0b000011#6)
        = .ok (.muladdO .w64 .signed (BitVec.ofInt 10 (-3))) := by
  decide

theorem test_decode_rem :
    decode (0b000000000#9 ++ 0b0000000101#10 ++ 0b000#3 ++ 0b1#1 ++ 0b001#3 ++ 0b000100#6)
        = .ok (.rem .w16 .signed 5#10)
      ∧ decode (0b000000000#9 ++ 0b0001000000#10 ++ 0b001#3 ++ 0b0#1 ++ 0b100#3 ++ 0b000100#6)
        = .ok (.remC .w128 .unsigned 64#10)
      ∧ decode (0b000000000#9 ++ 0b0000100000#10 ++ 0b010#3 ++ 0b0#1 ++ 0b010#3 ++ 0b000100#6)
        = .ok (.remW .w32 .unsigned 32#10)
      ∧ decode (0b000000000#9 ++ 0b0000000000#10 ++ 0b011#3 ++ 0b1#1 ++ 0b000#3 ++ 0b000100#6)
        = .ok (.remS .w8 .signed 0#10)
      ∧ decode (0b000000000#9 ++ 0b0000010001#10 ++ 0b100#3 ++ 0b1#1 ++ 0b011#3 ++ 0b000100#6)
        = .ok (.remO .w64 .signed 17#10) := by
  decide

theorem test_decode_remeu :
    decode (0b000000000#9 ++ 0b0000001000#10 ++ 0b000#3 ++ 0b0#1 ++ 0b001#3 ++ 0b000101#6)
        = .ok (.remeu .w16 .unsigned 8#10)
      ∧ decode (0b000000000#9 ++ 0b0010000000#10 ++ 0b001#3 ++ 0b0#1 ++ 0b100#3 ++ 0b000101#6)
        = .ok (.remeuC .w128 .unsigned 128#10)
      ∧ decode (0b000000000#9 ++ 0b0000000000#10 ++ 0b010#3 ++ 0b1#1 ++ 0b010#3 ++ 0b000101#6)
        = .ok (.remeuW .w32 .signed 0#10)
      ∧ decode (0b000000000#9 ++ 0b0000000011#10 ++ 0b011#3 ++ 0b1#1 ++ 0b000#3 ++ 0b000101#6)
        = .ok (.remeuS .w8 .signed 3#10)
      ∧ decode (0b000000000#9 ++ 0b0000100000#10 ++ 0b100#3 ++ 0b0#1 ++ 0b011#3 ++ 0b000101#6)
        = .ok (.remeuO .w64 .unsigned 32#10) := by
  decide

theorem test_decode_remi :
    decode (0b000000000#9 ++ 0b0000010000#10 ++ 0b000#3 ++ 0b0#1 ++ 0b001#3 ++ 0b000110#6)
        = .ok (.remi .w16 .unsigned 16#10)
      ∧ decode (0b000000000#9 ++ 0b0000000000#10 ++ 0b001#3 ++ 0b1#1 ++ 0b100#3 ++ 0b000110#6)
        = .ok (.remiC .w128 .signed 0#10)
      ∧ decode (0b000000000#9 ++ 0b0000001001#10 ++ 0b010#3 ++ 0b1#1 ++ 0b010#3 ++ 0b000110#6)
        = .ok (.remiW .w32 .signed 9#10)
      ∧ decode (0b000000000#9 ++ 0b0000000100#10 ++ 0b011#3 ++ 0b0#1 ++ 0b000#3 ++ 0b000110#6)
        = .ok (.remiS .w8 .unsigned 4#10)
      ∧ decode (0b000000000#9 ++ 0b0001000000#10 ++ 0b100#3 ++ 0b0#1 ++ 0b011#3 ++ 0b000110#6)
        = .ok (.remiO .w64 .unsigned 64#10) := by
  decide

theorem test_decode_remeui :
    decode (0b000000000#9 ++ 0b0000000000#10 ++ 0b000#3 ++ 0b1#1 ++ 0b001#3 ++ 0b000111#6)
        = .ok (.remeui .w16 .signed 0#10)
      ∧ decode (0b000000000#9 ++ 0b0000100001#10 ++ 0b001#3 ++ 0b1#1 ++ 0b100#3 ++ 0b000111#6)
        = .ok (.remeuiC .w128 .signed 33#10)
      ∧ decode (0b000000000#9 ++ 0b0000010000#10 ++ 0b010#3 ++ 0b0#1 ++ 0b010#3 ++ 0b000111#6)
        = .ok (.remeuiW .w32 .unsigned 16#10)
      ∧ decode (0b000000000#9 ++ 0b0000001000#10 ++ 0b011#3 ++ 0b0#1 ++ 0b000#3 ++ 0b000111#6)
        = .ok (.remeuiS .w8 .unsigned 8#10)
      ∧ decode (0b000000000#9 ++ 0b0000000000#10 ++ 0b100#3 ++ 0b1#1 ++ 0b011#3 ++ 0b000111#6)
        = .ok (.remeuiO .w64 .signed 0#10) := by
  decide

theorem test_decode_sqrt :
    decode (0b000000000#9 ++ 0b0000000101#10 ++ 0b000#3 ++ 0b1#1 ++ 0b001#3 ++ 0b001000#6)
        = .ok (.sqrt .w16 .signed 5#10)
      ∧ decode (0b000000000#9 ++ 0b0001000000#10 ++ 0b001#3 ++ 0b0#1 ++ 0b100#3 ++ 0b001000#6)
        = .ok (.sqrtC .w128 .unsigned 64#10) := by
  decide

theorem test_decode_rdec :
    decode (0b000000000#9 ++ 0b0000100000#10 ++ 0b000#3 ++ 0b0#1 ++ 0b010#3 ++ 0b010000#6)
        = .ok (.rdec .w32 .unsigned 32#10) := by
  decide

theorem test_decode_rbin :
    decode (0b000000000#9 ++ 0b0000000000#10 ++ 0b000#3 ++ 0b1#1 ++ 0b000#3 ++ 0b010001#6)
        = .ok (.rbin .w8 .signed 0#10) := by
  decide

theorem test_decode_roct :
    decode (0b000000000#9 ++ 0b0000010001#10 ++ 0b000#3 ++ 0b1#1 ++ 0b011#3 ++ 0b010010#6)
        = .ok (.roct .w64 .signed 17#10) := by
  decide

theorem test_decode_rhexl :
    decode (0b000000000#9 ++ 0b0000001000#10 ++ 0b000#3 ++ 0b0#1 ++ 0b001#3 ++ 0b010011#6)
        = .ok (.rhexl .w16 .unsigned 8#10) := by
  decide

theorem test_decode_rhexu :
    decode (0b000000000#9 ++ 0b0010000000#10 ++ 0b000#3 ++ 0b0#1 ++ 0b100#3 ++ 0b010100#6)
        = .ok (.rhexu .w128 .unsigned 128#10) := by
  decide

/-- One word for each reason a word is illegal (95_test_vectors.md E6 to E23), and the reserved codes at their ends. -/
theorem test_decode_rejects :
    decode 0x00000000#32 = .error .reservedOp ∧ decode 0x0000000F#32 = .error .reservedOp
      ∧ decode 0x00000015#32 = .error .reservedOp ∧ decode 0x0000003F#32 = .error .reservedOp
      ∧ decode 0x00000141#32 = .error .reservedWidth ∧ decode 0x000001C1#32 = .error .reservedWidth
      ∧ decode 0x00001401#32 = .error .reservedFlavour ∧ decode 0x00001C01#32 = .error .reservedFlavour
      ∧ decode 0x00000808#32 = .error .flavourNotLegal ∧ decode 0x00000410#32 = .error .flavourNotLegal
      ∧ decode 0x00012001#32 = .error .fracOutOfRange ∧ decode 0x007FE001#32 = .error .fracOutOfRange
      ∧ decode 0x007EE003#32 = .error .fracOutOfRange ∧ decode 0x00022003#32 = .error .fracOutOfRange
      ∧ decode 0x00810041#32 = .error .reservedBits ∧ decode 0x80010041#32 = .error .reservedBits := by
  decide

/-- The legality predicate on the same words. -/
theorem test_legalWord :
    legalWord 0x00010041#32 = true ∧ legalWord 0x00700103#32 = true ∧ legalWord 0x00200303#32 = true
      ∧ legalWord 0x00000000#32 = false ∧ legalWord 0x00000141#32 = false ∧ legalWord 0x00001401#32 = false
      ∧ legalWord 0x00000808#32 = false ∧ legalWord 0x00012001#32 = false ∧ legalWord 0x007EE003#32 = false
      ∧ legalWord 0x80010041#32 = false := by
  decide

/-- The examples of 30_encoding.md R105: assembler text and word. -/
theorem test_assembler_examples :
    asmText (.mul .w16 .unsigned 8#10) = "MUL.U16 8" ∧ encode (.mul .w16 .unsigned 8#10) = 0x00010041#32
      ∧ asmText (.muladdO .w32 .signed (BitVec.ofInt 10 (-4))) = "MULADD.I32.O -4"
      ∧ encode (.muladdO .w32 .signed (BitVec.ofInt 10 (-4))) = 0x007F9283#32
      ∧ asmText (.rhexu .w128 .unsigned 128#10) = "RHEXU.U128 128"
      ∧ encode (.rhexu .w128 .unsigned 128#10) = 0x00100114#32 := by
  decide

/-- The table word of MUL is MUL.U8 0. -/
theorem test_decodeTableWord : decodeTableWord 32 0x00000001 = some (.mul .w8 .unsigned 0#10) := by decide

/-! ## The meanings, on the vectors of 95_test_vectors.md section 4 -/

/-- M2: `MUL.I16 8`. -/
theorem test_mul_M2 :
    resultAfter 0x00010241#32 0xFFFF#128 0x80#128 0x0#128
      = some (0xFFFFFFFFFFFFFFFFFFFFFFFFFFFFFFFF#128, 0x00000002#32) := by
  decide

/-- M16: `MUL.I128 64`. -/
theorem test_mul_M16 :
    resultAfter 0x00080301#32 0xFFFFFFFFFFFFFFFFFFFFFFFFFFFFFFFF#128 0x10000000000000000#128 0x0#128
      = some (0xFFFFFFFFFFFFFFFFFFFFFFFFFFFFFFFF#128, 0x00000002#32) := by
  decide

/-- M6c: `MUL.I16.C 15`. -/
theorem test_mulC_M6c :
    resultAfter 0x0001E641#32 0x8000#128 0x8000#128 0x0#128
      = some (0x5A#128, 0x0000000E#32) := by
  decide

/-- M8c: `MUL.I32.C 16`. -/
theorem test_mulC_M8c :
    resultAfter 0x00020681#32 0x80000000#128 0xFFFF0000#128 0x0#128
      = some (0x5A#128, 0x0000000E#32) := by
  decide

/-- M6w: `MUL.I16.W 15`. -/
theorem test_mulW_M6w :
    resultAfter 0x0001EA41#32 0x8000#128 0x8000#128 0x0#128
      = some (0xFFFFFFFFFFFFFFFFFFFFFFFFFFFF8000#128, 0x00000006#32) := by
  decide

/-- M7w: `MUL.U8.W 0`. -/
theorem test_mulW_M7w :
    resultAfter 0x00000801#32 0x10#128 0x10#128 0x0#128
      = some (0x0#128, 0x00000006#32) := by
  decide

/-- M7s: `MUL.U8.S 0`. -/
theorem test_mulS_M7s :
    resultAfter 0x00000C01#32 0x10#128 0x10#128 0x0#128
      = some (0xFF#128, 0x00000006#32) := by
  decide

/-- M8s: `MUL.I32.S 16`. -/
theorem test_mulS_M8s :
    resultAfter 0x00020E81#32 0x80000000#128 0xFFFF0000#128 0x0#128
      = some (0x7FFFFFFF#128, 0x00000006#32) := by
  decide

/-- M8o: `MUL.I32.O 16`. -/
theorem test_mulO_M8o :
    resultAfter 0x00021281#32 0x80000000#128 0xFFFF0000#128 0x0#128
      = some (0xFFFFFFFFFFFFFFFFFFFFFFFF80000000#128, 0x00000006#32) := by
  decide

/-- M15: `MUL.U128.O 0`. -/
theorem test_mulO_M15 :
    resultAfter 0x00001101#32 0xFFFFFFFFFFFFFFFFFFFFFFFFFFFFFFFF#128 0xFFFFFFFFFFFFFFFFFFFFFFFFFFFFFFFF#128 0x0#128
      = some (0x1#128, 0x00000006#32) := by
  decide

/-- V2: `DIV.I16 8`. -/
theorem test_div_V2 :
    resultAfter 0x00010242#32 0xFF00#128 0x300#128 0x0#128
      = some (0xFFFFFFFFFFFFFFFFFFFFFFFFFFFFFFAB#128, 0x00000002#32) := by
  decide

/-- V13: `DIV.I128 1`. -/
theorem test_div_V13 :
    resultAfter 0x00002302#32 0x80000000000000000000000000000000#128 0xFFFFFFFFFFFFFFFFFFFFFFFFFFFFFFFF#128 0x0#128
      = some (0x5A#128, 0x00000036#32) := by
  decide

/-- V5c: `DIV.U16.C 8`. -/
theorem test_divC_V5c :
    resultAfter 0x00010442#32 0x100#128 0x0#128 0x0#128
      = some (0x5A#128, 0x00000022#32) := by
  decide

/-- V8c: `DIV.U16.C 16`. -/
theorem test_divC_V8c :
    resultAfter 0x00020442#32 0x8000#128 0x4000#128 0x0#128
      = some (0x5A#128, 0x0000000E#32) := by
  decide

/-- V6w: `DIV.I16.W 0`. -/
theorem test_divW_V6w :
    resultAfter 0x00000A42#32 0x8000#128 0xFFFF#128 0x0#128
      = some (0xFFFFFFFFFFFFFFFFFFFFFFFFFFFF8000#128, 0x00000006#32) := by
  decide

/-- V8w: `DIV.U16.W 16`. -/
theorem test_divW_V8w :
    resultAfter 0x00020842#32 0x8000#128 0x4000#128 0x0#128
      = some (0x0#128, 0x00000006#32) := by
  decide

/-- V6s: `DIV.I16.S 0`. -/
theorem test_divS_V6s :
    resultAfter 0x00000E42#32 0x8000#128 0xFFFF#128 0x0#128
      = some (0x7FFF#128, 0x00000006#32) := by
  decide

/-- V8s: `DIV.U16.S 16`. -/
theorem test_divS_V8s :
    resultAfter 0x00020C42#32 0x8000#128 0x4000#128 0x0#128
      = some (0xFFFF#128, 0x00000006#32) := by
  decide

/-- V5o: `DIV.U16.O 8`. -/
theorem test_divO_V5o :
    resultAfter 0x00011042#32 0x100#128 0x0#128 0x0#128
      = some (0x5A#128, 0x00000022#32) := by
  decide

/-- V6o: `DIV.I16.O 0`. -/
theorem test_divO_V6o :
    resultAfter 0x00001242#32 0x8000#128 0xFFFF#128 0x0#128
      = some (0xFFFFFFFFFFFFFFFFFFFFFFFFFFFF8000#128, 0x00000006#32) := by
  decide

/-- A2: `MULADD.I16 8`. -/
theorem test_muladd_A2 :
    resultAfter 0x00010243#32 0xFFFF#128 0x80#128 0x100#128
      = some (0xFF#128, 0x00000002#32) := by
  decide

/-- A11: `MULADD.I128 -100`. -/
theorem test_muladd_A11 :
    resultAfter 0x00738303#32 0x3#128 0x5#128 0xFFFFFFFFFFFFFFFFFFFFFFFFFFFFFFFF#128
      = some (0xEFFFFFFFFFFFFFFFFFFFFFFFFF#128, 0x00000002#32) := by
  decide

/-- A5c: `MULADD.I8.C -8`. -/
theorem test_muladdC_A5c :
    resultAfter 0x007F0603#32 0x1#128 0x1#128 0x0#128
      = some (0x5A#128, 0x0000000E#32) := by
  decide

/-- A9c: `MULADD.U16.C 0`. -/
theorem test_muladdC_A9c :
    resultAfter 0x00000443#32 0xFFFF#128 0x3#128 0xFFFF#128
      = some (0x5A#128, 0x0000000E#32) := by
  decide

/-- A5w: `MULADD.I8.W -8`. -/
theorem test_muladdW_A5w :
    resultAfter 0x007F0A03#32 0x1#128 0x1#128 0x0#128
      = some (0x0#128, 0x00000006#32) := by
  decide

/-- A9w: `MULADD.U16.W 0`. -/
theorem test_muladdW_A9w :
    resultAfter 0x00000843#32 0xFFFF#128 0x3#128 0xFFFF#128
      = some (0xFFFC#128, 0x00000006#32) := by
  decide

/-- A5s: `MULADD.I8.S -8`. -/
theorem test_muladdS_A5s :
    resultAfter 0x007F0E03#32 0x1#128 0x1#128 0x0#128
      = some (0x7F#128, 0x00000006#32) := by
  decide

/-- A9s: `MULADD.U16.S 0`. -/
theorem test_muladdS_A9s :
    resultAfter 0x00000C43#32 0xFFFF#128 0x3#128 0xFFFF#128
      = some (0xFFFF#128, 0x00000006#32) := by
  decide

/-- A5o: `MULADD.I8.O -8`. -/
theorem test_muladdO_A5o :
    resultAfter 0x007F1203#32 0x1#128 0x1#128 0x0#128
      = some (0x0#128, 0x00000006#32) := by
  decide

/-- A9o: `MULADD.U16.O 0`. -/
theorem test_muladdO_A9o :
    resultAfter 0x00001043#32 0xFFFF#128 0x3#128 0xFFFF#128
      = some (0xFFFC#128, 0x00000006#32) := by
  decide

/-- R1: `REM.I16 8`. -/
theorem test_rem_R1 :
    resultAfter 0x00010244#32 0xFA80#128 0x200#128 0x0#128
      = some (0xFFFFFFFFFFFFFFFFFFFFFFFFFFFFFE80#128, 0x00000002#32) := by
  decide

/-- R2: `REM.I16 8`. -/
theorem test_rem_R2 :
    resultAfter 0x00010244#32 0x580#128 0xFE00#128 0x0#128
      = some (0x180#128, 0x00000002#32) := by
  decide

/-- R3c: `REM.I16.C 0`. -/
theorem test_remC_R3c :
    resultAfter 0x00000644#32 0x8000#128 0xFFFF#128 0x0#128
      = some (0x0#128, 0x00000002#32) := by
  decide

/-- R3w: `REM.I16.W 0`. -/
theorem test_remW_R3w :
    resultAfter 0x00000A44#32 0x8000#128 0xFFFF#128 0x0#128
      = some (0x0#128, 0x00000002#32) := by
  decide

/-- R4: `REM.I16.W 0`. -/
theorem test_remW_R4 :
    resultAfter 0x00000A44#32 0x1234#128 0x0#128 0x0#128
      = some (0x5A#128, 0x00000022#32) := by
  decide

/-- R3s: `REM.I16.S 0`. -/
theorem test_remS_R3s :
    resultAfter 0x00000E44#32 0x8000#128 0xFFFF#128 0x0#128
      = some (0x0#128, 0x00000002#32) := by
  decide

/-- R3o: `REM.I16.O 0`. -/
theorem test_remO_R3o :
    resultAfter 0x00001244#32 0x8000#128 0xFFFF#128 0x0#128
      = some (0x0#128, 0x00000002#32) := by
  decide

/-- R7: `REMEU.I16 8`. -/
theorem test_remeu_R7 :
    resultAfter 0x00010245#32 0xFA80#128 0xFE00#128 0x0#128
      = some (0x80#128, 0x00000002#32) := by
  decide

/-- R8: `REMEU.I8 0`. -/
theorem test_remeu_R8 :
    resultAfter 0x00000205#32 0xFF#128 0x80#128 0x0#128
      = some (0x7F#128, 0x00000002#32) := by
  decide

/-- R7 in this flavour (42_divide_remainder.md R164: never OVERFLOW). -/
theorem test_remeuC_same :
    resultAfter 0x00010645#32 0xFA80#128 0xFE00#128 0x0#128
      = some (0x80#128, 0x00000002#32) := by
  decide

/-- R7 in this flavour (42_divide_remainder.md R164: never OVERFLOW). -/
theorem test_remeuW_same :
    resultAfter 0x00010A45#32 0xFA80#128 0xFE00#128 0x0#128
      = some (0x80#128, 0x00000002#32) := by
  decide

/-- R10: `REMEU.I16.S 8`. -/
theorem test_remeuS_R10 :
    resultAfter 0x00010E45#32 0x100#128 0x0#128 0x0#128
      = some (0x5A#128, 0x00000022#32) := by
  decide

/-- R7 in this flavour (42_divide_remainder.md R164: never OVERFLOW). -/
theorem test_remeuS_same :
    resultAfter 0x00010E45#32 0xFA80#128 0xFE00#128 0x0#128
      = some (0x80#128, 0x00000002#32) := by
  decide

/-- R7 in this flavour (42_divide_remainder.md R164: never OVERFLOW). -/
theorem test_remeuO_same :
    resultAfter 0x00011245#32 0xFA80#128 0xFE00#128 0x0#128
      = some (0x80#128, 0x00000002#32) := by
  decide

/-- I3: `REMI.I8 7`. -/
theorem test_remi_I3 :
    resultAfter 0x0000E206#32 0x80#128 0x1#128 0x0#128
      = some (0xFFFFFFFFFFFFFFFFFFFFFFFFFFFFFF80#128, 0x00000002#32) := by
  decide

/-- I4: `REMI.I16 8`. -/
theorem test_remi_I4 :
    resultAfter 0x00010246#32 0xFA80#128 0x2#128 0x0#128
      = some (0xFFFFFFFFFFFFFFFFFFFFFFFFFFFFFE80#128, 0x00000002#32) := by
  decide

/-- I6: `REMI.I16.C 8`. -/
theorem test_remiC_I6 :
    resultAfter 0x00010646#32 0x1234#128 0x0#128 0x0#128
      = some (0x5A#128, 0x00000022#32) := by
  decide

/-- I3 in this flavour (42_divide_remainder.md R166: never OVERFLOW). -/
theorem test_remiC_same :
    resultAfter 0x0000E606#32 0x80#128 0x1#128 0x0#128
      = some (0xFFFFFFFFFFFFFFFFFFFFFFFFFFFFFF80#128, 0x00000002#32) := by
  decide

/-- I3 in this flavour (42_divide_remainder.md R166: never OVERFLOW). -/
theorem test_remiW_same :
    resultAfter 0x0000EA06#32 0x80#128 0x1#128 0x0#128
      = some (0xFFFFFFFFFFFFFFFFFFFFFFFFFFFFFF80#128, 0x00000002#32) := by
  decide

/-- I3 in this flavour (42_divide_remainder.md R166: never OVERFLOW). -/
theorem test_remiS_same :
    resultAfter 0x0000EE06#32 0x80#128 0x1#128 0x0#128
      = some (0xFFFFFFFFFFFFFFFFFFFFFFFFFFFFFF80#128, 0x00000002#32) := by
  decide

/-- I3 in this flavour (42_divide_remainder.md R166: never OVERFLOW). -/
theorem test_remiO_same :
    resultAfter 0x0000F206#32 0x80#128 0x1#128 0x0#128
      = some (0xFFFFFFFFFFFFFFFFFFFFFFFFFFFFFF80#128, 0x00000002#32) := by
  decide

/-- I8u: `REMEUI.I8 4`. -/
theorem test_remeui_I8u :
    resultAfter 0x00008207#32 0xF8#128 0x10#128 0x0#128
      = some (0x5A#128, 0x00000036#32) := by
  decide

/-- I10: `REMEUI.I8 4`. -/
theorem test_remeui_I10 :
    resultAfter 0x00008207#32 0xFF#128 0x8#128 0x0#128
      = some (0x7F#128, 0x00000002#32) := by
  decide

/-- I8c: `REMEUI.I8.C 4`. -/
theorem test_remeuiC_I8c :
    resultAfter 0x00008607#32 0xF8#128 0x10#128 0x0#128
      = some (0x5A#128, 0x0000000E#32) := by
  decide

/-- I8w: `REMEUI.I8.W 4`. -/
theorem test_remeuiW_I8w :
    resultAfter 0x00008A07#32 0xF8#128 0x10#128 0x0#128
      = some (0xFFFFFFFFFFFFFFFFFFFFFFFFFFFFFFF8#128, 0x00000006#32) := by
  decide

/-- I8s: `REMEUI.I8.S 4`. -/
theorem test_remeuiS_I8s :
    resultAfter 0x00008E07#32 0xF8#128 0x10#128 0x0#128
      = some (0x7F#128, 0x00000006#32) := by
  decide

/-- I8o: `REMEUI.I8.O 4`. -/
theorem test_remeuiO_I8o :
    resultAfter 0x00009207#32 0xF8#128 0x10#128 0x0#128
      = some (0xFFFFFFFFFFFFFFFFFFFFFFFFFFFFFFF8#128, 0x00000006#32) := by
  decide

/-- Q5: `SQRT.I16 16`. -/
theorem test_sqrt_Q5 :
    resultAfter 0x00020248#32 0x3FFF#128 0x0#128 0x0#128
      = some (0x7FFE#128, 0x00000002#32) := by
  decide

/-- Q15: `SQRT.U128 64`. -/
theorem test_sqrt_Q15 :
    resultAfter 0x00080108#32 0x20000000000000000#128 0x0#128 0x0#128
      = some (0x16A09E667F3BCC908#128, 0x00000002#32) := by
  decide

/-- Q7: `SQRT.I16.C 16`. -/
theorem test_sqrtC_Q7 :
    resultAfter 0x00020648#32 0x4000#128 0x0#128 0x0#128
      = some (0x5A#128, 0x0000000E#32) := by
  decide

/-- Q9: `SQRT.I8.C 7`. -/
theorem test_sqrtC_Q9 :
    resultAfter 0x0000E608#32 0x80#128 0x0#128 0x0#128
      = some (0x5A#128, 0x0000000A#32) := by
  decide

/-! ## Rendering, on the vectors of 95_test_vectors.md section 5 -/

/-- T18: `RDEC.U16 16`. -/
theorem test_rdec_T18 :
    textAfter 0x00020050#32 0x1#128 0x08000000#32
      = some (7, ascii "0.00002") := by
  decide

/-- T29: `RDEC.I16 8`. -/
theorem test_rdec_T29 :
    textAfter 0x00010250#32 0x180#128 0x17E60E00#32
      = some (7, ascii "_+1.5__") := by
  decide

/-- T4: `RBIN.U16 8`. -/
theorem test_rbin_T4 :
    textAfter 0x00010051#32 0xFF80#128 0x08000001#32
      = some (9, ascii "100000000") := by
  decide

/-- T34: `RBIN.I8 0`. -/
theorem test_rbin_T34 :
    textAfter 0x00000211#32 0x80#128 0x08300000#32
      = some (11, ascii "-0b10000000") := by
  decide

/-- T10: `ROCT.U16 8`. -/
theorem test_roct_T10 :
    textAfter 0x00010052#32 0xDDDD#128 0x08000000#32
      = some (7, ascii "335.672") := by
  decide

/-- T11: `ROCT.U16 8`. -/
theorem test_roct_T11 :
    textAfter 0x00010052#32 0xDDDD#128 0x08100000#32
      = some (9, ascii "0o335.672") := by
  decide

/-- T15: `RHEXL.I16 8`. -/
theorem test_rhexl_T15 :
    textAfter 0x00010253#32 0xFE80#128 0x08181400#32
      = some (10, ascii "-0x00001.8") := by
  decide

/-- T40: `RHEXL.U32 16`. -/
theorem test_rhexl_T40 :
    textAfter 0x00020093#32 0x15555#128 0x08000005#32
      = some (4, ascii "1.55") := by
  decide

/-- T9: `RHEXU.I128 128`. -/
theorem test_rhexu_T9 :
    textAfter 0x00100314#32 0xFFFFFFFFFFFFFFFFFFFFFFFFFFFFFFFF#128 0x08000000#32
      = some (35, ascii "-0.00000000000000000000000000000001") := by
  decide

/-- T16: `RHEXU.U16 8`. -/
theorem test_rhexu_T16 :
    textAfter 0x00010054#32 0xFFFF#128 0x08000003#32
      = some (5, ascii "100.0") := by
  decide

/-! ## The host's accesses (95_test_vectors.md section 6) -/

/-- B1 to B3: reads after reset of STATUS, RCFG and a reserved offset. -/
theorem test_reads_after_reset :
    (nextOf (step (hosted [.rd 4 0x038]))).map State.readData = some 0x00000000#32
      ∧ (nextOf (step (hosted [.rd 4 0x034]))).map State.readData = some 0x08000000#32
      ∧ (nextOf (step (hosted [.rd 4 0x050]))).map State.readData = some 0x00000000#32 := by
  decide

/-- B4: the reserved bits of RCFG ignore writes. -/
theorem test_rcfg_write :
    (nextOf (step (hosted [.wr 4 0x034 0xFFFFFFFF#32]))).map State.rcfg = some 0x3FFFFFFF#32 := by
  decide

/-- B5, B6: RES and TXTLEN ignore writes. -/
theorem test_read_only_registers :
    (nextOf (step { idle 0 0 0 with hostQueue := [.wr 4 0x040 0x12345678#32] })).map State.res = some 0x5A#128
      ∧ (nextOf (step (hosted [.wr 4 0x03C 5#32]))).map State.txtlen = some 0#32 := by
  decide

/-- B8: the write that clears CMDLOST. -/
theorem test_clear_cmdlost :
    (nextOf (step { hosted [.wr 4 0x038 0x00000100#32] with done := true, cmdlost := true })).map statusWord
      = some 0x00000002#32 := by
  decide

/-- B9: a write of word 2 of OPA changes bits [95:64] alone. -/
theorem test_operand_word :
    (nextOf (step { idle 0x11111111222222223333333344444444#128 0 0 with
        hostQueue := [.wr 4 0x008 0xDEADBEEF#32] })).map State.opa
      = some 0x11111111DEADBEEF3333333344444444#128 := by
  decide

/-- B10, B13: reads while a command is in flight. -/
theorem test_reads_in_flight :
    (nextOf (step (flying (latch 0x00010041#32 1 1 0) 3 [.rd 4 0x038]))).map State.readData = some 0x00000001#32
      ∧ (nextOf (step { flying (latch 0x00010041#32 1 1 0) 3 [.rd 4 0x040] with res := 7#128 })).map State.readData
          = some 7#32 := by
  decide

/-- B11: a CMD write while a command is in flight. -/
theorem test_dropped_command :
    (nextOf (step (flying (latch 0x00010041#32 1 1 0) 3 [.wr 4 0x030 9#32]))).map (fun t => (t.cmd, t.cmdlost))
      = some (0x00010041#32, true) := by
  decide

/-- B15: reset while a command is in flight. -/
theorem test_reset_abandons :
    (nextOf (step (flying (latch 0x00010041#32 1 1 0) 3 [.reset]))).map (fun t => (t.cmd, t.inflight))
      = some (0x00000000#32, none) := by
  decide

/-- RCFG words of 95_test_vectors.md section 5 from their named fields (T15, T17, T29). -/
theorem test_rcfg_words :
    rcfgWordOf { width := 10#8, zpad := true, alt := true } = 0x08181400#32
      ∧ rcfgWordOf { prec := some 20#8 } = 0x08000029#32
      ∧ rcfgWordOf { width := 7#8, align := 3#2, plus := true, fill := 0x5F#8 } = 0x17E60E00#32 := by
  decide

/-! ## Witnesses: a state and operands that meet the hypotheses of each statement -/

/-- The invariant of a machine with a command in flight: used by the witnesses that need it. -/
theorem flying_inv {l : Latch} (h : l.rcfg &&& rcfgMask = l.rcfg) (k : Nat) (ops : List HostOp) :
    Inv (flying l k ops) where
  textCanonical := rfl
  textFits := Nat.zero_le _
  textEnds := fun _ _ => rfl
  rcfgReserved := show 0x08000000#32 &&& rcfgMask = 0x08000000#32 by decide
  inFlight := fun m hm => by
    cases hm
    exact ⟨rfl, h, rfl⟩
  notDone := fun _ => ⟨rfl, rfl, rfl⟩
  overflowSets := fun h => by cases h
  otherErrorClears := fun h => absurd rfl h
  absentIsNoError := fun h => by cases h

theorem witness_DecodeOfEncodeIsTheCommand :
    (Instr.muladdO .w32 .signed (BitVec.ofInt 10 (-32))).wellFormed = true
      ∧ (Instr.muladdO .w32 .signed 64#10).wellFormed = true ∧ (Instr.rbin .w8 .signed 8#10).wellFormed = true := by
  decide

theorem witness_DecodedCommandEncodesToItsWord :
    decode 0x007F9283#32 = .ok (.muladdO .w32 .signed (BitVec.ofInt 10 (-4))) := by
  decide

theorem witness_StepRunsTheDecodedCommand :
    (flying (latch 0x00010041#32 1 1 0) 0).inflight = some (latch 0x00010041#32 1 1 0)
      ∧ (flying (latch 0x00010041#32 1 1 0) 0).countdown = 0
      ∧ decode (latch 0x00010041#32 1 1 0).cmd = .ok (.mul .w16 .unsigned 8#10) := by
  decide

/-- One word at the edge of each condition of 30_encoding.md R101. -/
theorem witness_IllegalWord_conditions :
    IllegalWord 0x00000000#32 ∧ IllegalWord 0x00000009#32 ∧ IllegalWord 0x0000000F#32 ∧ IllegalWord 0x00000015#32
      ∧ IllegalWord 0x00000141#32 ∧ IllegalWord 0x00001401#32 ∧ IllegalWord 0x00000808#32
      ∧ IllegalWord 0x00000410#32 ∧ IllegalWord 0x00012001#32 ∧ IllegalWord 0x007FE001#32
      ∧ IllegalWord 0x007EE003#32 ∧ IllegalWord 0x00022003#32 ∧ IllegalWord 0x00810041#32 := by
  refine ⟨?_, ?_, ?_, ?_, ?_, ?_, ?_, ?_, ?_, ?_, ?_, ?_, ?_⟩ <;> decide

theorem witness_IllegalWordIsAcceptedAndCompletesWithIllegal :
    (hosted [.wr 4 0x030 0x00000009#32]).inflight = none
      ∧ (hosted [.wr 4 0x030 0x00000009#32]).hostQueue = [.wr 4 0x030 0x00000009#32]
      ∧ (latch 0x00000009#32 0 0 0).cmd = 0x00000009#32
      ∧ (flying (latch 0x00000009#32 0 0 0) 0).inflight = some (latch 0x00000009#32 0 0 0)
      ∧ (flying (latch 0x00000009#32 0 0 0) 0).countdown = 0 := by
  decide

theorem witness_IllFormedCommandRaisesIllegal :
    (Instr.mul .w8 .unsigned 9#10).wellFormed = false
      ∧ (flying (latch 0x00012001#32 0 0 0) 0).inflight = some (latch 0x00012001#32 0 0 0) := by
  decide

/-- A value at each end of the range, and one beyond each end. -/
theorem witness_FlavourTablesSayWhatACompletionWrites :
    Representable .w8 .signed 127 ∧ Representable .w8 .signed (-128) ∧ ¬ Representable .w8 .signed 128
      ∧ ¬ Representable .w8 .signed (-129) ∧ maxVal .w8 .signed < 128 ∧ -129 < minVal .w8 .signed := by
  decide

/-- MUL.I8 at f = 4: −1 · 8 / 16 floors to −1. -/
theorem witness_MulWritesTheFlooredProduct :
    let l := latch 0x00008201#32 0xFF#128 0x08#128 0
    (flying l 0).inflight = some l ∧ 0 ≤ (4#10 : Frac).toInt ∧ (4#10 : Frac).toInt ≤ Width.w8.bits
      ∧ -1 * 2 ^ (4#10 : Frac).toInt.toNat ≤ val .w8 .signed l.opa * val .w8 .signed l.opb
      ∧ val .w8 .signed l.opa * val .w8 .signed l.opb < (-1 + 1) * 2 ^ (4#10 : Frac).toInt.toNat := by
  decide

/-- MUL.I8 at f = 0: −128 · −128 = 16384 overflows above, −128 · 127 = −16256 below; at f = N the first is 64. -/
theorem witness_MulWritesTheFlooredProduct_overflow :
    val .w8 .signed 0x80#128 * val .w8 .signed 0x80#128 = 16384 ∧ ¬ Representable .w8 .signed 16384
      ∧ maxVal .w8 .signed < 16384
      ∧ val .w8 .signed 0x80#128 * val .w8 .signed 0x7F#128 = -16256 ∧ ¬ Representable .w8 .signed (-16256)
      ∧ -16256 < minVal .w8 .signed
      ∧ 64 * 2 ^ (8#10 : Frac).toInt.toNat ≤ val .w8 .signed 0x80#128 * val .w8 .signed 0x80#128
      ∧ val .w8 .signed 0x80#128 * val .w8 .signed 0x80#128 < (64 + 1) * 2 ^ (8#10 : Frac).toInt.toNat := by
  decide

/-- DIV.I8 at f = 4: −7 · 16 / 3 = −37 with remainder −1. -/
theorem witness_DivWritesTheTruncatedQuotient :
    let l := latch 0x00008202#32 0xF9#128 0x03#128 0
    (flying l 0).inflight = some l ∧ 0 ≤ (4#10 : Frac).toInt ∧ (4#10 : Frac).toInt ≤ Width.w8.bits
      ∧ val .w8 .signed l.opb ≠ 0
      ∧ val .w8 .signed l.opa * 2 ^ (4#10 : Frac).toInt.toNat = -37 * val .w8 .signed l.opb + -1
      ∧ |(-1 : Int)| < |val .w8 .signed l.opb| ∧ 0 ≤ -1 * val .w8 .signed l.opa := by
  decide

/-- DIV.I8 at f = N: −128 · 256 / −1 = 32768 overflows above, and −128 · 256 / 1 below. -/
theorem witness_DivWritesTheTruncatedQuotient_overflow :
    val .w8 .signed 0x80#128 * 2 ^ (8#10 : Frac).toInt.toNat = 32768 * val .w8 .signed 0xFF#128 + 0
      ∧ ¬ Representable .w8 .signed 32768
      ∧ val .w8 .signed 0x80#128 * 2 ^ (8#10 : Frac).toInt.toNat = -32768 * val .w8 .signed 0x01#128 + 0
      ∧ ¬ Representable .w8 .signed (-32768) := by
  decide

theorem witness_ZeroDivisorIsReportedInEveryFlavour :
    let l := latch 0x00000244#32 0x80#128 0x100#128 0
    (flying l 0).inflight = some l ∧ 0 ≤ (0#10 : Frac).toInt ∧ (0#10 : Frac).toInt ≤ Width.w8.bits
      ∧ val .w8 .signed l.opb = 0 := by
  decide

/-- MULADD.I8 at f = 16 = 2N: −128 · 127 floors to −1; and at f = −8 = −N: 1 · 1 is 256. -/
theorem witness_MuladdAddsToTheFlooredProduct :
    let l := latch 0x00020203#32 0x80#128 0x7F#128 0x05#128
    let m := latch 0x007F0203#32 0x01#128 0x01#128 0x00#128
    (flying l 0).inflight = some l ∧ (16#10 : Frac).toInt = 2 * Width.w8.bits
      ∧ -1 * 2 ^ (16#10 : Frac).toInt.toNat ≤ val .w8 .signed l.opa * val .w8 .signed l.opb
      ∧ val .w8 .signed l.opa * val .w8 .signed l.opb < (-1 + 1) * 2 ^ (16#10 : Frac).toInt.toNat
      ∧ Representable .w8 .signed (-1 + val .w8 .signed l.opc)
      ∧ (flying m 0).inflight = some m ∧ (BitVec.ofInt 10 (-8) : Frac).toInt = -(Width.w8.bits : Int)
      ∧ 256 = val .w8 .signed m.opa * val .w8 .signed m.opb * 2 ^ (-(BitVec.ofInt 10 (-8) : Frac).toInt).toNat
      ∧ ¬ Representable .w8 .signed (256 + val .w8 .signed m.opc) := by
  decide

/-- −7 rem 2 is −1, and −7 mod 2 is 1. -/
theorem witness_RemAndRemeu :
    let l := latch 0x00000204#32 0xF9#128 0x02#128 0
    (flying l 0).inflight = some l ∧ val .w8 .signed l.opb ≠ 0
      ∧ IsTruncRem (val .w8 .signed l.opa) (val .w8 .signed l.opb) (-1)
      ∧ IsEuclidRem (val .w8 .signed l.opa) (val .w8 .signed l.opb) 1 := by
  exact ⟨rfl, by decide, ⟨⟨-3, by decide⟩, by decide, by decide⟩, ⟨⟨-4, by decide⟩, by decide, by decide⟩⟩

/-- The realigned divisor just representable (d = −1, f = 7: MIN), just not (d = 1, f = 7: 128), and f = N. -/
theorem witness_RemiWritesTheRemainderByAnInteger :
    let l := latch 0x0000E206#32 0xF9#128 0xFF#128 0
    (flying l 0).inflight = some l ∧ (7#10 : Frac).toInt < Width.w8.bits
      ∧ Representable .w8 .signed (val .w8 .signed l.opb * 2 ^ (7#10 : Frac).toInt.toNat)
      ∧ IsTruncRem (val .w8 .signed l.opa) (val .w8 .signed l.opb * 2 ^ (7#10 : Frac).toInt.toNat) (-7)
      ∧ ¬ Representable .w8 .signed (val .w8 .signed 0x01#128 * 2 ^ (7#10 : Frac).toInt.toNat)
      ∧ (8#10 : Frac).toInt = Width.w8.bits := by
  exact ⟨rfl, by decide, by decide, ⟨⟨0, by decide⟩, by decide, by decide⟩, by decide, by decide⟩

/-- The four cases: the realigned divisor representable; not, with A ≥ 0; with A = −1 and −1 + 128 fitting; with A = −8
and −8 + 256 not fitting. -/
theorem witness_RemeuiWritesTheEuclideanRemainderByAnInteger :
    let l := latch 0x00008207#32 0xF8#128 0x10#128 0
    (flying l 0).inflight = some l ∧ val .w8 .signed l.opb ≠ 0
      ∧ Representable .w8 .signed (val .w8 .signed 0x07#128 * 2 ^ (4#10 : Frac).toInt.toNat)
      ∧ IsEuclidRem (val .w8 .signed l.opa) (val .w8 .signed 0x07#128 * 2 ^ (4#10 : Frac).toInt.toNat) 104
      ∧ ¬ Representable .w8 .signed (val .w8 .signed l.opb * 2 ^ (4#10 : Frac).toInt.toNat)
      ∧ 0 ≤ val .w8 .signed 0x00#128
      ∧ ¬ Representable .w8 .signed (val .w8 .signed 0x08#128 * 2 ^ (4#10 : Frac).toInt.toNat)
      ∧ val .w8 .signed 0xFF#128 < 0
      ∧ Representable .w8 .signed
          (val .w8 .signed 0xFF#128 + |val .w8 .signed 0x08#128| * 2 ^ (4#10 : Frac).toInt.toNat)
      ∧ val .w8 .signed l.opa < 0
      ∧ ¬ Representable .w8 .signed
          (val .w8 .signed l.opa + |val .w8 .signed l.opb| * 2 ^ (4#10 : Frac).toInt.toNat) := by
  exact ⟨rfl, by decide, by decide, ⟨⟨-1, by decide⟩, by decide, by decide⟩, by decide, by decide, by decide,
    by decide, by decide, by decide, by decide⟩

theorem witness_MinRemMinusOneIsZeroThoughDivOverflows :
    let l := latch 0x00000244#32 0x8000#128 0xFFFF#128 0
    (flying l 0).inflight = some l ∧ val .w16 .signed l.opa = minVal .w16 .signed ∧ val .w16 .signed l.opb = -1 := by
  decide

/-- I3 of 95_test_vectors.md (f = N − 1), and f = 1. -/
theorem witness_RemiReturnsMinWhereTheRealignedDivisorOverflows :
    let l := latch 0x0000E206#32 0x80#128 0x01#128 0
    (flying l 0).inflight = some l ∧ 1 ≤ (7#10 : Frac).toInt ∧ (7#10 : Frac).toInt ≤ (Width.w8.bits : Int) - 1
      ∧ val .w8 .signed l.opa = minVal .w8 .signed
      ∧ val .w8 .signed l.opb = 2 ^ (Width.w8.bits - 1 - (7#10 : Frac).toInt.toNat)
      ∧ val .w8 .signed 0x40#128 = 2 ^ (Width.w8.bits - 1 - (1#10 : Frac).toInt.toNat) := by
  decide

theorem witness_EuclideanOverflowIsOnlyRemeuiAboveMax :
    remeuiOutcome .w8 .signed 4#10 (latch 0x00008207#32 0xF8#128 0x10#128 0) = .euOvf (-8) 248 := by
  decide

/-- The largest root that fits and the smallest that does not, at f = N signed; a negative operand; f out of range. -/
theorem witness_SqrtWritesTheFloorRoot :
    let l := latch 0x00020248#32 0x3FFF#128 0 0
    let m := latch 0x00020248#32 0x4000#128 0 0
    (flying l 0).inflight = some l ∧ (16#10 : Frac).toInt = Width.w16.bits
      ∧ 32766 * 32766 ≤ val .w16 .signed l.opa * 2 ^ (16#10 : Frac).toInt.toNat
      ∧ val .w16 .signed l.opa * 2 ^ (16#10 : Frac).toInt.toNat < (32766 + 1) * (32766 + 1)
      ∧ Representable .w16 .signed 32766
      ∧ 32768 * 32768 ≤ val .w16 .signed m.opa * 2 ^ (16#10 : Frac).toInt.toNat
      ∧ val .w16 .signed m.opa * 2 ^ (16#10 : Frac).toInt.toNat < (32768 + 1) * (32768 + 1)
      ∧ ¬ Representable .w16 .signed 32768
      ∧ val .w16 .signed 0x8000#128 < 0
      ∧ (BitVec.ofInt 10 (-1) : Frac).toInt < 0 ∧ (Width.w16.bits : Int) < (17#10 : Frac).toInt := by
  decide

/-- Both sides of the condition: A = 2^(N−2) − 1 and A = 2^(N−2), at f = N. -/
theorem witness_SqrtOverflowsOnlyAtFullSignedFraction :
    val .w16 .signed 0x3FFF#128 * 2 ^ (16#10 : Frac).toInt.toNat < (32766 + 1) * (32766 + 1)
      ∧ 32766 * 32766 ≤ val .w16 .signed 0x3FFF#128 * 2 ^ (16#10 : Frac).toInt.toNat
      ∧ 32768 * 32768 ≤ val .w16 .signed 0x4000#128 * 2 ^ (16#10 : Frac).toInt.toNat
      ∧ val .w16 .signed 0x4000#128 * 2 ^ (16#10 : Frac).toInt.toNat < (32768 + 1) * (32768 + 1)
      ∧ 0 ≤ (16#10 : Frac).toInt ∧ (16#10 : Frac).toInt ≤ Width.w16.bits := by
  decide

theorem witness_ResultPatternIsTheExtendedWrap :
    Representable .w8 .signed (-128) ∧ Representable .w128 .signed (-1) ∧ Representable .w8 .unsigned 255
      ∧ Representable .w128 .unsigned 0xFFFFFFFFFFFFFFFFFFFFFFFFFFFFFFFF := by
  decide

/-- Latches that differ in OPC, in OPB's high bits and in RCFG, alike for MUL.U16; and for RDEC in all but OPA, RCFG. -/
theorem witness_ResultDependsOnlyOnTheOperandsRead :
    let l := latch 0x00010041#32 0x10180#128 0x0240#128 0
    let m := { latch 0x00010041#32 0x0180#128 0x50240#128 7 with rcfg := 0x08000001#32 }
    (flying l 0).inflight = some l ∧ (flying m 0).inflight = some m
      ∧ SameOperands (.mul .w16 .unsigned 8#10) l m
      ∧ SameOperands (.rdec .w16 .unsigned 8#10) l { m with rcfg := l.rcfg } := by
  decide

/-- The ends of the ranges of f, and a divisor that is not zero. -/
theorem witness_tiers :
    (8 : Nat) ≤ Width.w8.bits ∧ val .w8 .signed 0x80#128 ≠ 0 ∧ -(Width.w8.bits : Int) ≤ -8
      ∧ (16 : Int) ≤ 2 * Width.w8.bits ∧ (128 : Nat) ≤ 128 ∧ val .w128 .signed 0x1#128 ≠ 0 ∧ (-128 : Int) ≤ -128
      ∧ (256 : Int) ≤ 256 := by
  decide

theorem witness_RenderCommandsWriteTheText :
    let l := latch 0x00010050#32 0xFF80#128 0 0
    let m := latch 0x00000410#32 0xFF80#128 0 0
    (flying l 0).inflight = some l ∧ 0 ≤ (16#10 : Frac).toInt ∧ (16#10 : Frac).toInt ≤ Width.w16.bits
      ∧ (BitVec.ofInt 10 (-1) : Frac).toInt < 0 ∧ (Width.w16.bits : Int) < (17#10 : Frac).toInt
      ∧ isRenderWord m.cmd = true ∧ IllegalWord m.cmd ∧ (flying m 0).inflight = some m
      ∧ (flying m 0).countdown = 0 := by
  decide

/-- The longest text of 46_render.md R273 has 387 bytes: RBIN.I128 at f = 0, A = MIN, with ALT, PREC_EN and PREC 255. -/
theorem witness_RenderedTextHasAtMost387Bytes :
    (render .bin .w128 .signed 0 (1#128 <<< 127) 0x081001FF#32).length = 387 := by
  decide +kernel

/-- Ties either way: 1.5 to 2, 2.5 to 2; and the strict cases 1.25 and 1.75. -/
theorem witness_RoundingIsToNearestTiesToEven :
    roundHalfEven 3 1 = 2 ∧ roundHalfEven 5 1 = 2 ∧ roundHalfEven 5 2 = 1 ∧ roundHalfEven 7 2 = 2 := by
  decide

/-- 46_render.md R259: F = 0xDD at f = 8 takes three digits. -/
theorem witness_AutomaticDecimalCountIsLeast : 0xDD < 2 ^ 8 ∧ autoDecimalDigits 0xDD 8 = 3 := by
  decide

theorem witness_RenderedDigitsRoundTrip : digitBits .oct = some 3 ∧ 8 ≤ 3 * 3 := by
  decide

/-- More digits than k + 1, and fewer before the padding. -/
theorem witness_DigitsDenoteTheRoundedValue :
    roundedDigits .dec 0 255 1 = [2, 5, 5, 0] ∧ roundedDigits .dec 8 1 3 = [0, 0, 0, 4] := by
  decide

theorem witness_DigitBodyPlacesThePointAndTrims :
    15 < radixBase .hexUpper ∧ 9 < radixBase .dec ∧ 2 < [1, 5, 0].length ∧ digitBody .dec 2 true [1, 5, 0] = ascii "1.5"
      ∧ digitBody .dec 2 false [1, 5, 0] = ascii "1.50" ∧ digitBody .dec 1 true [1, 0] = ascii "1" := by
  decide

theorem witness_UnpaddedTextIsSignPrefixAndBody : ((0x08300000#32 : Word32).extractLsb' 9 8).toNat = 0 := by
  decide

/-- The body of S2a and S2b of 95_test_vectors.md, and T40's: automatic and explicit precision, decimal and hexadecimal. -/
theorem test_shownBody :
    shownBody .dec .w16 .unsigned 8 0xDDDD#128 0x08000000#32 = ascii "221.863"
      ∧ shownBody .dec .w16 .unsigned 8 0xDDDD#128 0x08000005#32 = ascii "221.86"
      ∧ shownBody .hexLower .w32 .unsigned 16 0x00015555#128 0x08000005#32 = ascii "1.55" := by
  decide

/-- A field no wider than its content, and a wider one with each of ZPAD and the four ALIGN values (T24 to T30). -/
theorem witness_PaddingFollowsZpadThenAlign :
    ((0x08000600#32 : Word32).extractLsb' 9 8).toNat = 3 ∧ (0x0A8A1000#32 : Word32).getLsbD 19 = true
      ∧ ((0x0A8A1000#32 : Word32).extractLsb' 9 8).toNat = 8 ∧ (0x08001000#32 : Word32).getLsbD 19 = false
      ∧ (0x08001000#32 : Word32).extractLsb' 17 2 = 0#2 ∧ (0x0A821000#32 : Word32).extractLsb' 17 2 = 1#2
      ∧ (0x0A841000#32 : Word32).extractLsb' 17 2 = 2#2 ∧ (0x0A861000#32 : Word32).extractLsb' 17 2 = 3#2 := by
  decide

/-- A due command that renders and one that does not. -/
theorem witness_DueCompletionStepAlwaysCompletes :
    completionDue (flying (latch 0x00010050#32 1 0 0) 0) = some (latch 0x00010050#32 1 0 0)
      ∧ isRenderWord 0x00010050#32 = true ∧ isRenderWord 0x00010041#32 = false := by
  decide

/-- A completion with OVERFLOW (M6u) and one with DIVZERO (V5u). -/
theorem witness_ErrorCompletionWritesOnlyStatus :
    (nextOf (step (flying (latch 0x0001E241#32 0x8000 0x8000 0) 0))).map State.err = some .overflow
      ∧ (nextOf (step (flying (latch 0x00010042#32 0x0100 0 0) 0))).map State.err = some .divzero := by
  decide

theorem witness_EveryStepKeepsTheInvariant :
    ∃ t, Inv (flying (latch 0x00010050#32 0xFF80 0 0) 0) ∧ step (flying (latch 0x00010050#32 0xFF80 0 0) 0) = .next t :=
  ⟨_, flying_inv (by decide) 0 [], rfl⟩

/-- A misaligned access and one outside the window are refused; both are outside the interface. -/
theorem witness_StepsStopOnlyAtAccessesOutsideTheInterface :
    (∃ r, step (hosted [.rd 4 0x002]) = .refused r) ∧ (∃ r, step (hosted [.wr 4 0x1000 0]) = .refused r)
      ∧ ¬ wellFormedAccess 4 0x002 ∧ ¬ wellFormedAccess 4 0x1000 ∧ wellFormedAccess 4 0xFFC := by
  exact ⟨⟨_, rfl⟩, ⟨_, rfl⟩, by decide, by decide,
    by decide⟩

theorem witness_CommandCompletesWhenItsLatencyHasPassed :
    let s := flying (latch 0x00010041#32 1 1 0) 2 [.wait, .wr 4 0x000 7#32, .rd 4 0x040]
    s.inflight = some (latch 0x00010041#32 1 1 0) ∧ ∀ op ∈ s.hostQueue, plainAction op := by
  refine ⟨rfl, fun op hop => ?_⟩
  simp only [flying, List.mem_cons, List.not_mem_nil, or_false] at hop
  rcases hop with rfl | rfl | rfl <;> simp [plainAction, wellFormedAccess]

theorem witness_WaitExitsAfterTheCompletion :
    let s := flying (latch 0x00010041#32 1 1 0) 2 [.wait]
    s.inflight = some (latch 0x00010041#32 1 1 0) ∧ s.hostQueue = [.wait] := by
  decide

theorem witness_CmdWrites :
    (hosted [.wr 4 0x030 0x00010041#32]).inflight = none
      ∧ (hosted [.wr 4 0x030 0x00010041#32]).hostQueue = [.wr 4 0x030 0x00010041#32]
      ∧ (flying (latch 0x00010041#32 1 1 0) 2 [.wr 4 0x030 9#32]).inflight = some (latch 0x00010041#32 1 1 0)
      ∧ (flying (latch 0x00010041#32 1 1 0) 2 [.wr 4 0x030 9#32]).countdown ≠ 0
      ∧ (flying (latch 0x00010041#32 1 1 0) 2 [.wr 4 0x030 9#32]).hostQueue = [.wr 4 0x030 9#32]
      ∧ HostOp.wr 4 0x030 9#32 ≠ .reset := by
  decide

/-- The last step of CmdWriteWhileIdleIsAccepted's second clause. -/
theorem witness_CmdWriteWhileIdleIsAccepted_next :
    ∃ t, step (flying (latch 0x00010041#32 1 1 0) 2 [.wr 4 0x000 9#32]) = .next t :=
  ⟨_, rfl⟩

/-- Reads and writes of the window: at the first and last word of each range a statement names, while idle and while a
command is in flight. -/
theorem witness_window_accesses :
    completionDue (hosted [.rd 4 0x00C]) = none ∧ completionDue (flying (latch 0x00010041#32 1 1 0) 2 []) = none
      ∧ (hosted [.rd 4 (0x000 + 4 * 3)]).hostQueue = [.rd 4 0x00C]
      ∧ (hosted [.wr 4 (0x020 + 4 * 3) 1#32]).hostQueue = [.wr 4 0x02C 1#32]
      ∧ (hosted [.rd 4 (0x100 + 4 * 127)]).hostQueue = [.rd 4 0x2FC] ∧ renderInFlight (hosted []) = false
      ∧ 0x050 % 4 = 0 ∧ 0x0FC < 0x100 ∧ 0x300 % 4 = 0 ∧ 0xFFC % 4 = 0 ∧ 0x03C % 4 = 0 := by
  decide

/-- One step for each clause of ReservedAndReadOnlyRegistersIgnoreWrites, at the ends of its ranges. -/
theorem witness_ReservedAndReadOnlyRegistersIgnoreWrites :
    step (hosted [.rd 4 0x050]) = .next (hosted []) ∧ step (hosted [.rd 4 0x0FC]) = .next (hosted [])
      ∧ step (hosted [.rd 4 0x300]) = .next (hosted []) ∧ step (hosted [.rd 4 0xFFC]) = .next (hosted [])
      ∧ step (hosted [.wr 4 0x03C 1#32]) = .next (hosted []) ∧ step (hosted [.wr 4 0x100 1#32]) = .next (hosted [])
      ∧ step (hosted [.wr 4 0xFFC 1#32]) = .next (hosted []) ∧ step (hosted [.wr 4 0x038 0x1FF#32]) = .next (hosted [])
      := by
  exact ⟨rfl, rfl, rfl, rfl, rfl, rfl, rfl, rfl⟩

/-- A command in flight that renders and one that does not, with a read of STATUS, TXTLEN, and the first and last word
of TXT. -/
theorem witness_ReadsWhileACommandIsInFlight :
    Inv (flying (latch 0x00010050#32 1 0 0) 2 [.rd 4 0x2FC]) ∧ Inv (flying (latch 0x00010041#32 1 0 0) 2 [.rd 4 0x03C])
      ∧ (flying (latch 0x00010050#32 1 0 0) 2 [.rd 4 0x2FC]).inflight = some (latch 0x00010050#32 1 0 0)
      ∧ (flying (latch 0x00010050#32 1 0 0) 2 [.rd 4 0x2FC]).hostQueue = [.rd 4 0x2FC]
      ∧ (flying (latch 0x00010050#32 1 0 0) 2 [.rd 4 0x2FC]).countdown ≠ 0
      ∧ isRenderWord 0x00010050#32 = true ∧ isRenderWord 0x00010041#32 = false ∧ 0x2FC % 4 = 0 ∧ 0x100 % 4 = 0
      ∧ Inv (flying (latch 0x00010041#32 1 0 0) 2 [.rd 4 0x100])
      ∧ (flying (latch 0x00010041#32 1 0 0) 2 [.rd 4 0x100]).hostQueue = [.rd 4 0x100] :=
  ⟨flying_inv (by decide) 2 _, flying_inv (by decide) 2 _, rfl, rfl, by decide, by decide, by decide, by decide, by decide,
    flying_inv (by decide) 2 _, rfl⟩

/-- Each malformed access: another width, and a misaligned offset. -/
theorem witness_MalformedAccessesAreRefused :
    completionDue (hosted [.rd 2 0x000]) = none ∧ ((2 : Nat) ≠ 4 ∨ 0x000 % 4 ≠ 0)
      ∧ ((4 : Nat) ≠ 4 ∨ 0x003 % 4 ≠ 0) ∧ (hosted [.wr 4 0x003 1#32]).hostQueue = [.wr 4 0x003 1#32] := by
  decide

theorem witness_ResetRestoresEveryResetValue :
    completionDue (flying (latch 0x00010041#32 1 1 0) 2 [.reset]) = none
      ∧ (flying (latch 0x00010041#32 1 1 0) 2 [.reset]).hostQueue = [.reset] := by
  decide


end Sys2Proof.Machine.Tests
end

/-! # What one host action does

One rule per action of the host, on the state a step hands it: the access rules of the register window, and which
actions leave INFLIGHT alone (10_state.md R40, R42). -/

namespace Sys2Proof.Machine

/-! ## The host's turn -/

theorem step_eq_hostStep {s : State} (hdue : completionDue s = none) : step s = hostStep (passStep s) := by
  simp only [step, hdue]

/-- A read of the window at the host's turn (20_memory.md R62, R71). -/
theorem step_rd {s : State} {bytes off : Nat} {rest : List HostOp} (hdue : completionDue s = none)
    (hacc : wellFormedAccess bytes off) (hq : s.hostQueue = .rd bytes off :: rest) :
    step s = .next (readReg { s with hostQueue := rest, countdown := s.countdown - 1 } (regAt off)) := by
  rw [step_eq_hostStep hdue]
  simp only [hostStep, passStep_hostQueue, hq, hostRead_of_wellFormed hacc]
  rfl

/-- A write of the window at the host's turn (20_memory.md R62). -/
theorem step_wr {s : State} {bytes off : Nat} {v : Word32} {rest : List HostOp} (hdue : completionDue s = none)
    (hacc : wellFormedAccess bytes off) (hq : s.hostQueue = .wr bytes off v :: rest) :
    step s = .next (writeReg { s with hostQueue := rest, countdown := s.countdown - 1 } (regAt off) v) := by
  rw [step_eq_hostStep hdue]
  simp only [hostStep, passStep_hostQueue, hq, hostWrite_of_wellFormed hacc]
  rfl

@[simp] theorem regAt_cmd : regAt 0x030 = .cmd := rfl

@[simp] theorem regAt_status : regAt 0x038 = .status := rfl

/-- A read of a specified word hands the host that word, and changes nothing else (20_memory.md R71). -/
theorem readReg_of_specified {s : State} {r : RegWord} (h : readsUnspecified s r = false) :
    readReg s r = { s with readData := regWord s r } := by
  simp [readReg, h]

/-! ## CMD writes (10_state.md R40, R42) -/

theorem writeReg_cmd_of_idle {s : State} (h : s.inflight = none) (v : Word32) :
    writeReg s .cmd v = accept v s := by
  simp [writeReg, issueCommand, busy, h]

theorem writeReg_cmd_of_inflight {s : State} {l : Latch} (h : s.inflight = some l) (v : Word32) :
    writeReg s .cmd v = dropCommand s := by
  simp [writeReg, issueCommand, busy, h]

/-! ## What leaves the latch alone -/

@[simp] theorem readReg_inflight (s : State) (r : RegWord) : (readReg s r).inflight = s.inflight := by
  obtain ⟨d, n, h⟩ := readReg_eq s r
  rw [h]

/-- No write of the window changes the latch of a command in flight: a CMD write is dropped (10_state.md R42), and
every other write goes elsewhere. -/
theorem writeReg_inflight {s : State} {l : Latch} (hl : s.inflight = some l) (r : RegWord) (v : Word32) :
    (writeReg s r v).inflight = some l := by
  rcases writeReg_cases s r v with
    ⟨k, h⟩ | ⟨k, h⟩ | ⟨k, h⟩ | ⟨hnone, -⟩ | ⟨-, h⟩ | h | h | h
  case inr.inr.inr.inl => simp [hl] at hnone
  all_goals simpa [h] using hl

theorem hostRead_inflight {s t : State} {bytes off : Nat} (h : hostRead bytes off s = .next t) :
    t.inflight = s.inflight := by
  unfold hostRead at h
  split at h
  · cases h
  · cases h
    exact readReg_inflight s _

theorem hostWrite_inflight {s t : State} {l : Latch} {bytes off : Nat} {v : Word32} (hl : s.inflight = some l)
    (h : hostWrite bytes off v s = .next t) : t.inflight = some l := by
  unfold hostWrite at h
  split at h
  · cases h
  · cases h
    exact writeReg_inflight hl _ v

@[simp] theorem hostWait_inflight (rest : List HostOp) (s : State) : (hostWait rest s).inflight = s.inflight := by
  unfold hostWait
  dsimp only
  split <;> exact readReg_inflight s .status

/-- Every action of the host but the reset input keeps the latch of a command in flight (10_state.md R40). -/
theorem hostStep_keeps_latch {s t : State} {l : Latch} {op : HostOp} {rest : List HostOp}
    (hl : s.inflight = some l) (hq : s.hostQueue = op :: rest) (hop : op ≠ .reset) (h : hostStep s = .next t) :
    t.inflight = some l := by
  unfold hostStep at h
  rw [hq] at h
  cases op with
  | rd bytes off => exact (hostRead_inflight h).trans hl
  | wr bytes off v => exact hostWrite_inflight (s := { s with hostQueue := rest }) hl h
  | wait =>
    cases h
    exact (hostWait_inflight rest _).trans hl
  | reset => exact absurd rfl hop

/-! ## The fields of STATUS (10_state.md R27, R28) -/

@[simp] theorem statusWord_busy (s : State) : (statusWord s).getLsbD 0 = s.inflight.isSome := by
  simp [statusWord, busy]

@[simp] theorem statusWord_done (s : State) : (statusWord s).getLsbD 1 = s.done := by
  simp [statusWord]

@[simp] theorem statusWord_ov (s : State) : (statusWord s).getLsbD 2 = s.ov := by
  simp [statusWord]

@[simp] theorem statusWord_absent (s : State) : (statusWord s).getLsbD 3 = s.absent := by
  simp [statusWord]

@[simp] theorem statusWord_cmdlost (s : State) : (statusWord s).getLsbD 8 = s.cmdlost := by
  simp [statusWord]

@[simp] theorem statusWord_err (s : State) : (statusWord s).extractLsb' 4 4 = errCode s.err := by
  ext i hi
  simp [statusWord]
  grind

/-! # Acceptance and drop of a command, and the read of STATUS -/

/-- Settles O49: the write is `accept`, and of the host's actions only the reset input touches the latch. -/
theorem cmdWriteWhileIdleIsAccepted : Obligations.CmdWriteWhileIdleIsAccepted := by
  refine ⟨fun s v rest hidle hq => ?_, fun s t l op rest hl hcount hq hop hstep => ?_⟩
  · have hdue : completionDue s = none := completionDue_eq_none.mpr (.inl hidle)
    rw [step_wr hdue (by decide) hq, regAt_cmd, writeReg_cmd_of_idle]
    · exact ⟨_, _, rfl⟩
    · exact hidle
  · have hdue : completionDue s = none := completionDue_eq_none.mpr (.inr hcount)
    rw [step_eq_hostStep hdue] at hstep
    exact hostStep_keeps_latch (s := passStep s) hl hq hop hstep

/-- Settles O50: the write is `dropCommand`. -/
theorem cmdWriteWhileBusyIsDropped : Obligations.CmdWriteWhileBusyIsDropped := by
  intro s l v rest hl hcount hq
  have hdue : completionDue s = none := completionDue_eq_none.mpr (.inr hcount)
  rw [step_wr hdue (by decide) hq, regAt_cmd, writeReg_cmd_of_inflight (l := l)]
  · rfl
  · exact hl

/-- Settles O54: STATUS is specified at every read, so the word read is `statusWord`, whose fields the rules above
give. -/
theorem statusReadShowsTheFields : Obligations.StatusReadShowsTheFields := by
  intro s rest hdue hq
  refine ⟨statusWord s, ?_, ?_, statusWord_done s, statusWord_ov s, statusWord_absent s, ?_, statusWord_cmdlost s⟩
  · rw [step_rd hdue (by decide) hq, regAt_status, readReg_of_specified rfl]
    rfl
  · rw [statusWord_busy, Option.isSome_iff_ne_none]
  · rw [statusWord_err]
    cases s.err <;> rfl

end Sys2Proof.Machine

/-! # The register window, word by word

Which word of the register map each offset names (20_memory.md R64), what a specified read and a refused access answer
(R62, R63), and the bits of each word (R65 to R67). -/

namespace Sys2Proof.Machine

/-! ## The register map (20_memory.md R64) -/

theorem regAt_opa {k : Nat} (hk : k < 4) : regAt (0x000 + 4 * k) = .opa k := by
  unfold regAt
  rw [if_pos (by omega)]
  congr 1
  omega

theorem regAt_opb {k : Nat} (hk : k < 4) : regAt (0x010 + 4 * k) = .opb k := by
  unfold regAt
  rw [if_neg (by omega), if_pos (by omega)]
  congr 1
  omega

theorem regAt_opc {k : Nat} (hk : k < 4) : regAt (0x020 + 4 * k) = .opc k := by
  unfold regAt
  rw [if_neg (by omega), if_neg (by omega), if_pos (by omega)]
  congr 1
  omega

@[simp] theorem regAt_rcfg : regAt 0x034 = .rcfg := rfl

theorem regAt_res {k : Nat} (hk : k < 4) : regAt (0x040 + 4 * k) = .res k := by
  unfold regAt
  simp (disch := omega) only [if_neg, if_pos]
  congr 1
  omega

theorem regAt_txt {j : Nat} (hj : j < 128) : regAt (0x100 + 4 * j) = .txt j := by
  unfold regAt
  simp (disch := omega) only [if_neg, if_pos]
  congr 1
  omega

theorem regAt_reserved {off : Nat} (h : 0x050 ≤ off ∧ off < 0x100 ∨ 0x300 ≤ off) : regAt off = .reserved := by
  unfold regAt
  rcases h with ⟨hlo, hhi⟩ | h
  · simp (disch := omega) only [if_neg, if_pos]
  · simp (disch := omega) only [if_neg]

/-- From TXTLEN on, the map holds read-only registers and reserved words alone. -/
theorem regAt_readOnly {off : Nat} (h : 0x03C ≤ off) :
    regAt off = .txtlen ∨ (∃ k, regAt off = .res k) ∨ (∃ j, regAt off = .txt j) ∨ regAt off = .reserved := by
  unfold regAt
  rw [if_neg (by omega), if_neg (by omega), if_neg (by omega), if_neg (by omega), if_neg (by omega),
    if_neg (by omega)]
  split_ifs <;> simp

/-! ## Reads, writes and refused accesses at the host's turn -/

/-- A read of a specified word hands the host the word the register held before the step (20_memory.md R62, R71). -/
theorem step_rd_of_specified {s : State} {off : Nat} {r : RegWord} {rest : List HostOp}
    (hdue : completionDue s = none) (hacc : wellFormedAccess 4 off) (hr : regAt off = r)
    (hspec : readsUnspecified s r = false) (hq : s.hostQueue = .rd 4 off :: rest) :
    step s = .next { s with readData := regWord s r, hostQueue := rest, countdown := s.countdown - 1 } := by
  have hspec' : readsUnspecified { s with hostQueue := rest, countdown := s.countdown - 1 } r = false := by
    rw [← hspec]
    rfl
  rw [step_rd hdue hacc hq, hr, readReg_of_specified hspec']
  cases r <;> rfl

/-- No write from TXTLEN on changes any state (20_memory.md R67). -/
theorem writeReg_readOnly {off : Nat} (h : 0x03C ≤ off) (s : State) (v : Word32) : writeReg s (regAt off) v = s := by
  rcases regAt_readOnly h with hr | ⟨k, hr⟩ | ⟨j, hr⟩ | hr <;> rw [hr] <;> rfl

/-- A write of STATUS clears CMDLOST where bit 8 of the word is 1, and does nothing else (10_state.md R27). -/
theorem writeReg_status (s : State) (v : Word32) :
    writeReg s .status v = { s with cmdlost := s.cmdlost && !v.getLsbD 8 } := by
  simp only [writeReg]
  cases v.getLsbD 8 <;> simp

theorem accessRefusal_of_malformed {bytes off : Nat} (h : bytes ≠ 4 ∨ off % 4 ≠ 0) :
    accessRefusal bytes off = some .accessOutsideInterface :=
  if_pos h

theorem step_rd_of_malformed {s : State} {bytes off : Nat} {rest : List HostOp} (hdue : completionDue s = none)
    (hbad : bytes ≠ 4 ∨ off % 4 ≠ 0) (hq : s.hostQueue = .rd bytes off :: rest) :
    step s = .refused .accessOutsideInterface := by
  rw [step_eq_hostStep hdue]
  simp only [hostStep, passStep_hostQueue, hq, hostRead, accessRefusal_of_malformed hbad]

theorem step_wr_of_malformed {s : State} {bytes off : Nat} {v : Word32} {rest : List HostOp}
    (hdue : completionDue s = none) (hbad : bytes ≠ 4 ∨ off % 4 ≠ 0) (hq : s.hostQueue = .wr bytes off v :: rest) :
    step s = .refused .accessOutsideInterface := by
  rw [step_eq_hostStep hdue]
  simp only [hostStep, passStep_hostQueue, hq, hostWrite, accessRefusal_of_malformed hbad]

/-! ## The words of a 128-bit register (20_memory.md R65) -/

/-- Bit `i` of a register with word `k` replaced: the word's own bit inside it, the old bit elsewhere. -/
theorem getLsbD_setWordOf (r : Word128) (k : Nat) (v : Word32) {i : Nat} (hi : i < 128) :
    (setWordOf r k v).getLsbD i
      = if 32 * k ≤ i ∧ i < 32 * k + 32 then v.getLsbD (i - 32 * k) else r.getLsbD i := by
  have hmask : 0xFFFFFFFF#128 = (BitVec.allOnes 32).setWidth 128 := rfl
  simp only [setWordOf, hmask, BitVec.getLsbD_or, BitVec.getLsbD_and, BitVec.getLsbD_not, BitVec.getLsbD_shiftLeft,
    BitVec.getLsbD_setWidth, BitVec.getLsbD_allOnes]
  split_ifs with h
  · have hge : ¬ i < 32 * k := by omega
    have hlow : i - 32 * k < 32 := by omega
    have hlow' : i - 32 * k < 128 := by omega
    simp [hi, hge, hlow, hlow']
  · by_cases hlo : i < 32 * k
    · simp [hi, hlo]
    · have hhigh : 32 ≤ i - 32 * k := by omega
      simp [hi, hhigh]

/-- A write of word `k` puts the word there and keeps the three others. -/
theorem wordOf_setWordOf (r : Word128) (v : Word32) {j k : Nat} (hj : j < 4) :
    wordOf (setWordOf r k v) j = if j = k then v else wordOf r j := by
  apply BitVec.eq_of_getLsbD_eq
  intro i hi
  rw [wordOf, BitVec.getLsbD_extractLsb', getLsbD_setWordOf r k v (by omega)]
  split_ifs with hin hjk hjk
  · rw [hjk, Nat.add_sub_cancel_left]
    simp [hi]
  · omega
  · omega
  · rw [wordOf, BitVec.getLsbD_extractLsb']

/-- The word of the map at offset 4k of each 128-bit register is specified at every read, and is the register's bits
[32k+31 : 32k]. -/
theorem regAt_register128 (s : State) {k : Nat} (hk : k < 4) :
    ∀ p ∈ [(0x000, s.opa), (0x010, s.opb), (0x020, s.opc), (0x040, s.res)],
      wellFormedAccess 4 (p.1 + 4 * k) ∧ ∃ r, regAt (p.1 + 4 * k) = r ∧ readsUnspecified s r = false
        ∧ regWord s r = p.2.extractLsb' (32 * k) 32 := by
  have hacc : ∀ base, base % 4 = 0 → base ≤ 0x040 → wellFormedAccess 4 (base + 4 * k) :=
    fun base hb hle => ⟨rfl, by omega, by omega⟩
  simp only [List.forall_mem_cons, List.not_mem_nil, false_implies, implies_true, and_true]
  exact ⟨⟨hacc _ (by decide) (by decide), _, regAt_opa hk, rfl, rfl⟩,
    ⟨hacc _ (by decide) (by decide), _, regAt_opb hk, rfl, rfl⟩,
    ⟨hacc _ (by decide) (by decide), _, regAt_opc hk, rfl, rfl⟩,
    ⟨hacc _ (by decide) (by decide), _, regAt_res hk, rfl, rfl⟩⟩

/-! ## The words of TXT and of the masked registers (20_memory.md R66, R67) -/

/-- Byte `m` of word `j` of TXT is byte 4j + m of the text memory. -/
theorem extractLsb'_word (mem : Memory) (j : Nat) {m : Nat} (hm : m < 4) :
    (mem.word j).extractLsb' (8 * m) 8 = mem.read (4 * j + m) := by
  ext i hi
  simp only [Memory.word]
  interval_cases m <;> simp <;> grind

/-- The mask of RCFG clears bits [31:30] and keeps the others (10_state.md R26). -/
theorem getLsbD_and_rcfgMask (v : Word32) {b : Nat} (hb : b < 32) :
    (v &&& rcfgMask).getLsbD b = (v.getLsbD b && decide (b < 30)) := by
  have hm : ∀ i < 32, rcfgMask.getLsbD i = decide (i < 30) := by decide
  rw [BitVec.getLsbD_and, hm b hb]

/-- Bits [31:9] of STATUS read 0 (10_state.md R27). -/
theorem statusWord_reserved (s : State) {b : Nat} (hb : 9 ≤ b) : (statusWord s).getLsbD b = false := by
  simp [statusWord]
  grind

/-! # Accesses of the register window -/

/-- Settles O51: a read gives the word at its place; a write is `setWordOf`, which `wordOf_setWordOf` describes. -/
theorem registerWordsAreLittleEndianAndIndependent : Obligations.RegisterWordsAreLittleEndianAndIndependent := by
  intro s k rest hk hdue
  refine ⟨fun p hp hq => ?_, fun v => ⟨fun x => setWordOf x k v, fun x j hj => wordOf_setWordOf x v hj, ?_, ?_, ?_⟩⟩
  · obtain ⟨hacc, r, hr, hspec, hword⟩ := regAt_register128 s hk p hp
    rw [step_rd_of_specified hdue hacc hr hspec hq, hword]
  · intro hq
    rw [step_wr hdue ⟨rfl, by omega, by omega⟩ hq, regAt_opa hk]
    rfl
  · intro hq
    rw [step_wr hdue ⟨rfl, by omega, by omega⟩ hq, regAt_opb hk]
    rfl
  · intro hq
    rw [step_wr hdue ⟨rfl, by omega, by omega⟩ hq, regAt_opc hk]
    rfl

/-- Settles O52: with no render command in flight the read is specified, and the word is `Memory.word`. -/
theorem textWordsArePackedLittleEndian : Obligations.TextWordsArePackedLittleEndian := by
  intro s j rest hj hdue hrender hq
  have hacc : wellFormedAccess 4 (0x100 + 4 * j) := ⟨rfl, by omega, by omega⟩
  exact ⟨s.txt.word j, step_rd_of_specified hdue hacc (regAt_txt hj) hrender hq,
    fun m hm => extractLsb'_word s.txt j hm⟩

/-- Settles O53: each clause is the read or the write rule of the words its offsets name. -/
theorem reservedAndReadOnlyRegistersIgnoreWrites : Obligations.ReservedAndReadOnlyRegistersIgnoreWrites := by
  intro s off v rest hdue halign
  refine ⟨fun hres hq => ?_, fun hro hq => ?_, fun hq => ?_, fun hq => ?_, fun hq => ?_, fun hq => ?_⟩
  · have hacc : wellFormedAccess 4 off := ⟨rfl, by omega, by omega⟩
    exact step_rd_of_specified hdue hacc (regAt_reserved (by omega)) rfl hq
  · have hacc : wellFormedAccess 4 off := ⟨rfl, by omega, by omega⟩
    rw [step_wr hdue hacc hq, writeReg_readOnly hro.1]
  · exact ⟨_, step_rd_of_specified hdue (by decide) regAt_rcfg rfl hq, fun b hb => getLsbD_and_rcfgMask s.rcfg hb⟩
  · refine ⟨v &&& rcfgMask, ?_, fun b hb => getLsbD_and_rcfgMask v hb⟩
    rw [step_wr hdue (by decide) hq, regAt_rcfg]
    rfl
  · exact ⟨_, step_rd_of_specified hdue (by decide) regAt_status rfl hq, fun b hb => statusWord_reserved s hb⟩
  · rw [step_wr hdue (by decide) hq, regAt_status, writeReg_status]

/-- Settles O58: the access check refuses the access whichever way it goes. -/
theorem malformedAccessesAreRefused : Obligations.MalformedAccessesAreRefused := by
  rintro s bytes off v rest hdue hbad (hq | hq)
  · exact step_rd_of_malformed hdue hbad hq
  · exact step_wr_of_malformed hdue hbad hq

end Sys2Proof.Machine

/-! # Legal and illegal command words

What the decoder accepts (30_encoding.md R101, R102), field by field: each field's codes, the flavours and the FRAC
range of an operation, and then the word. -/

namespace Sys2Proof

/-! ## The codes of OP, W and FL (30_encoding.md R92 to R94) -/

theorem opOf_eq_some_iff {b : BitVec 6} {op : Op} : opOf b = some op ↔ b = opCode op := by
  refine ⟨fun h => ?_, fun h => h ▸ opOf_opCode op⟩
  unfold opOf at h
  split at h <;> cases h <;> rfl

theorem widthOf_eq_some_iff {b : BitVec 3} {w : Width} : widthOf b = some w ↔ b = widthCode w := by
  refine ⟨fun h => ?_, fun h => h ▸ widthOf_widthCode w⟩
  unfold widthOf at h
  split at h <;> cases h <;> rfl

theorem flavourOf_eq_some_iff {b : BitVec 3} {fl : Flavour} : flavourOf b = some fl ↔ b = flavourCode fl := by
  refine ⟨fun h => ?_, fun h => h ▸ flavourOf_flavourCode fl⟩
  unfold flavourOf at h
  split at h <;> cases h <;> rfl

theorem exists_eq_opCode_iff {b : BitVec 6} :
    (∃ op, b = opCode op) ↔ (0x01 ≤ b.toNat ∧ b.toNat ≤ 0x08) ∨ (0x10 ≤ b.toNat ∧ b.toNat ≤ 0x14) := by
  have hrange : ∀ c : BitVec 6,
      (opOf c).isSome ↔ (0x01 ≤ c.toNat ∧ c.toNat ≤ 0x08) ∨ (0x10 ≤ c.toNat ∧ c.toNat ≤ 0x14) := by decide
  simp only [← hrange, Option.isSome_iff_exists, opOf_eq_some_iff]

theorem exists_eq_widthCode_iff {b : BitVec 3} : (∃ w, b = widthCode w) ↔ b.toNat ≤ 4 := by
  have hrange : ∀ c : BitVec 3, (widthOf c).isSome ↔ c.toNat ≤ 4 := by decide
  simp only [← hrange, Option.isSome_iff_exists, widthOf_eq_some_iff]

theorem exists_eq_flavourCode_iff {b : BitVec 3} : (∃ fl, b = flavourCode fl) ↔ b.toNat ≤ 4 := by
  have hrange : ∀ c : BitVec 3, (flavourOf c).isSome ↔ c.toNat ≤ 4 := by decide
  simp only [← hrange, Option.isSome_iff_exists, flavourOf_eq_some_iff]

/-! ## The flavours and the FRAC range of an operation (30_encoding.md R98, R100) -/

/-- The operations with codes up to 0x07 have all five flavours, SQRT has two, the render commands have one. -/
theorem exists_instrOf_iff {op : Op} {fl : Flavour} {w : Width} {sg : Sign} {f : Frac} :
    (∃ i, instrOf op fl w sg f = some i) ↔
      if (opCode op).toNat ≤ 0x07 then (flavourCode fl).toNat ≤ 4
      else if (opCode op).toNat = 0x08 then (flavourCode fl).toNat ≤ 1
      else (flavourCode fl).toNat = 0 := by
  cases op <;> cases fl <;> simp [instrOf, opCode, flavourCode]

theorem bits_eq_widthCode (w : Width) : (w.bits : Int) = 8 * 2 ^ (widthCode w).toNat := by
  cases w <;> rfl

theorem fracLegal_iff {op : Op} {w : Width} {f : Frac} :
    fracLegal op w f = true ↔
      if (opCode op).toNat = 0x03 then
        -(8 * 2 ^ (widthCode w).toNat : Int) ≤ f.toInt ∧ f.toInt ≤ 2 * (8 * 2 ^ (widthCode w).toNat : Int)
      else 0 ≤ f.toInt ∧ f.toInt ≤ (8 * 2 ^ (widthCode w).toNat : Int) := by
  rw [← bits_eq_widthCode]
  cases op <;> simp [fracLegal, opCode]

/-! ## The word -/

/-- What an accepted word holds: no reserved bit, a code in each of OP, W and FL, a flavour and a FRAC value its
operation admits. -/
theorem decode_eq_ok_iff {v : Word32} {i : Instr} :
    decode v = .ok i ↔
      reservedField v = 0#9 ∧ ∃ op w fl,
        opField v = opCode op ∧ widthField v = widthCode w ∧ flavourField v = flavourCode fl
          ∧ instrOf op fl w (signOf (signField v)) (fracField v) = some i ∧ fracLegal op w (fracField v) = true := by
  simp only [← opOf_eq_some_iff, ← widthOf_eq_some_iff, ← flavourOf_eq_some_iff]
  constructor
  · intro h
    unfold decode at h
    split at h
    · cases h
    rename_i hrsv
    split at h
    · cases h
    rename_i op hop
    split at h
    · cases h
    rename_i w hw
    split at h
    · cases h
    rename_i fl hfl
    split at h
    · cases h
    rename_i j hj
    split at h
    · rename_i hf
      cases h
      exact ⟨not_not.mp hrsv, op, w, fl, hop, hw, hfl, hj, hf⟩
    · cases h
  · rintro ⟨hrsv, op, w, fl, hop, hw, hfl, hi, hf⟩
    simp [decode, hrsv, hop, hw, hfl, hi, hf]

/-- Settles O4: a word has codes in OP, W and FL where they lie in the listed ranges, and on codes the flavour and FRAC
clauses of R102 are what `instrOf` and `fracLegal` admit. -/
theorem decodeAcceptsExactlyTheLegalWords : Obligations.DecodeAcceptsExactlyTheLegalWords := by
  intro v
  constructor
  · rintro ⟨i, h⟩
    obtain ⟨hrsv, op, w, fl, hop, hw, hfl, hi, hf⟩ := decode_eq_ok_iff.mp h
    have hflavour := exists_instrOf_iff.mp ⟨i, hi⟩
    have hfrac := fracLegal_iff.mp hf
    rw [← hop, ← hfl] at hflavour
    rw [← hop, ← hw] at hfrac
    exact ⟨congrArg BitVec.toNat hrsv, exists_eq_opCode_iff.mp ⟨op, hop⟩, exists_eq_widthCode_iff.mp ⟨w, hw⟩,
      hflavour, hfrac⟩
  · rintro ⟨hrsv, hopRange, hwRange, hflavour, hfrac⟩
    have hflRange : (v.extractLsb' 10 3).toNat ≤ 4 := by
      split_ifs at hflavour <;> omega
    obtain ⟨op, hop⟩ := exists_eq_opCode_iff.mpr hopRange
    obtain ⟨w, hw⟩ := exists_eq_widthCode_iff.mpr hwRange
    obtain ⟨fl, hfl⟩ := exists_eq_flavourCode_iff.mpr hflRange
    rw [hop, hfl] at hflavour
    rw [hop, hw] at hfrac
    obtain ⟨i, hi⟩ := exists_instrOf_iff.mpr hflavour
    exact ⟨i, decode_eq_ok_iff.mpr ⟨BitVec.eq_of_toNat_eq hrsv, op, w, fl, hop, hw, hfl, hi, fracLegal_iff.mpr hfrac⟩⟩

end Sys2Proof

namespace Sys2Proof.Machine

/-- A word that meets a condition of R101 fails the legality predicate of R102, so it does not decode. -/
theorem decode_of_illegalWord {v : Word32} (hv : IllegalWord v) : ∃ e, decode v = .error e := by
  cases h : decode v with
  | error e => exact ⟨e, rfl⟩
  | ok i =>
    exfalso
    obtain ⟨hrsv, hop, hw, hflavour, hfrac⟩ := (decodeAcceptsExactlyTheLegalWords v).mp ⟨i, h⟩
    rcases hv with hv | hv | hv | hv | hv | hv
    · omega
    · omega
    · split_ifs at hflavour <;> omega
    · split_ifs at hflavour <;> omega
    · split_ifs at hfrac <;> omega
    · exact hv (BitVec.eq_of_toNat_eq hrsv)

theorem step_of_due {s : State} {l : Latch} (hl : s.inflight = some l) (hcount : s.countdown = 0) :
    step s = completionStep l s := by
  simp only [step, completionDue_eq_some.mpr ⟨hl, hcount⟩]

/-- ILLEGAL writes STATUS alone (60_exceptions.md R301, R302). -/
theorem completeIllegal_of_inflight {s : State} {l : Latch} (hl : s.inflight = some l) :
    completeIllegal s = .next (afterError s .illegal false) :=
  onLatch_of_inflight hl _

theorem completionStep_of_illegalWord {s : State} {l : Latch} (hv : IllegalWord l.cmd) (hl : s.inflight = some l) :
    completionStep l s = .next (afterError s .illegal false) := by
  obtain ⟨e, he⟩ := decode_of_illegalWord hv
  simp only [completionStep, he, completeIllegal_of_inflight hl]

/-- Settles O6: acceptance does not look at the word (O49), and a word that does not decode completes with ILLEGAL. -/
theorem illegalWordIsAcceptedAndCompletesWithIllegal : Obligations.IllegalWordIsAcceptedAndCompletesWithIllegal := by
  intro v hv
  refine ⟨fun s rest hidle hq => cmdWriteWhileIdleIsAccepted.1 s v rest hidle hq, fun s l hcmd hl hcount => ?_⟩
  rw [step_of_due hl hcount]
  exact completionStep_of_illegalWord (hcmd ▸ hv) hl

end Sys2Proof.Machine

/-! # Results, flavours and the pattern in RES

What each form of completion writes (40_arith_common.md R136 to R138), and what the 128 bits of RES say of the exact
result (10_state.md R23, 40_arith_common.md R142). -/

namespace Sys2Proof.Machine

/-! ## The pattern in RES -/

theorem bits_le_128 (w : Width) : w.bits ≤ 128 := by cases w <;> decide

/-- The low N bits of RES are wrap_N of the exact result, whichever way they are extended. -/
@[simp] theorem setWidth_resultPattern (w : Width) (sg : Sign) (x : Int) :
    (resultPattern w sg x).setWidth w.bits = BitVec.ofInt w.bits x := by
  have hw := bits_le_128 w
  cases sg with
  | unsigned => exact BitVec.setWidth_setWidth_of_le _ hw |>.trans (BitVec.setWidth_eq _)
  | signed =>
    ext i hi
    have hi128 : i < 128 := by omega
    simp [resultPattern, BitVec.getElem_signExtend, hi, hi128]

/-- Zero extension leaves the value of the low N bits the value of all 128 (10_state.md R23). -/
theorem toNat_resultPattern_unsigned (w : Width) (x : Int) :
    ((resultPattern w .unsigned x).toNat : Int) = val w .unsigned (resultPattern w .unsigned x) := by
  rw [val, setWidth_resultPattern, resultPattern, BitVec.toNat_setWidth_of_le (bits_le_128 w)]

/-- Sign extension leaves the value of the low N bits the value of all 128 (10_state.md R23). -/
theorem toInt_resultPattern_signed (w : Width) (x : Int) :
    (resultPattern w .signed x).toInt = val w .signed (resultPattern w .signed x) := by
  rw [val, setWidth_resultPattern, resultPattern, BitVec.toInt_signExtend_of_le (bits_le_128 w)]

/-- wrap_N changes no representable number (40_arith_common.md R142). -/
theorem val_resultPattern {w : Width} {sg : Sign} {x : Int} (hx : Representable w sg x) :
    val w sg (resultPattern w sg x) = x := by
  have hw := bits_pos w
  obtain ⟨hmin, hmax⟩ := hx
  cases sg with
  | unsigned =>
    simp only [minVal, maxVal] at hmin hmax
    have hlt : x < ((2 ^ w.bits : Nat) : Int) := by omega
    rw [val, setWidth_resultPattern, BitVec.toNat_ofInt, Int.emod_eq_of_lt hmin hlt, Int.toNat_of_nonneg hmin]
  | signed =>
    simp only [minVal, maxVal] at hmin hmax
    push_cast at hmin hmax
    rw [val, setWidth_resultPattern]
    exact BitVec.toInt_ofInt_eq_self hw hmin (by omega)

/-- Settles O23: the low N bits are `BitVec.ofInt`, and all 128 have the value of the low N, which is representable and
is x when x is. -/
theorem resultPatternIsTheExtendedWrap : Obligations.ResultPatternIsTheExtendedWrap := by
  intro w sg x
  refine ⟨?_, ?_, ?_, ?_, ?_, val_resultPattern⟩
  · have hpos : ((2 ^ w.bits : Nat) : Int) ≠ 0 := (two_pow_pos w.bits).ne'
    calc ((resultPattern w sg x).toNat : Int) % 2 ^ w.bits
        = (((resultPattern w sg x).setWidth w.bits).toNat : Int) := by simp only [BitVec.toNat_setWidth]; norm_cast
      _ = x % (2 ^ w.bits : Nat) := by
        rw [setWidth_resultPattern, BitVec.toNat_ofInt, Int.toNat_of_nonneg (Int.emod_nonneg x hpos)]
      _ = x % 2 ^ w.bits := by norm_cast
  · rintro rfl
    have hval := val_representable w .unsigned (resultPattern w .unsigned x)
    rw [← toNat_resultPattern_unsigned, Representable, maxVal] at hval
    omega
  · rintro rfl
    rw [toInt_resultPattern_signed]
    exact val_representable w .signed _
  · rintro hx rfl
    rw [toNat_resultPattern_unsigned, val_resultPattern hx]
  · rintro hx rfl
    rw [toInt_resultPattern_signed, val_resultPattern hx]

/-! ## The forms of a completion -/

@[simp] theorem complete_writeResult (s : State) (w : Width) (sg : Sign) (x : Int) :
    complete s (writeResult w sg x) = afterResult s (resultPattern w sg x) false := rfl

@[simp] theorem complete_raiseError (s : State) (e : ErrCode) :
    complete s (raiseError e) = afterError s e (decide (e = .overflow)) := rfl

/-! ## Saturation (40_arith_common.md R141) -/

theorem saturated_of_above {w : Width} {sg : Sign} {x : Int} (h : maxVal w sg < x) :
    saturated w sg x = maxVal w sg :=
  if_pos h

theorem saturated_of_below {w : Width} {sg : Sign} {x : Int} (h : x < minVal w sg) :
    saturated w sg x = minVal w sg := by
  have hmin := minVal_nonpos w sg
  have hmax := maxVal_nonneg w sg
  exact if_neg (by omega)

/-! ## The flavour tables -/

/-- What the rows for a result that does not fit have in common in R136 and R138: the tables differ only in the number
the wrapping flavours write and in the one SATURATING writes. -/
def afterOverflow (w : Width) (sg : Sign) (wrapped extreme : Int) (s : State) : Flavour → State
  | .unchecked => afterError s .overflow true
  | .checked => afterAbsent s true
  | .wrapping | .overflowing => afterResult s (resultPattern w sg wrapped) true
  | .saturating => afterResult s (resultPattern w sg extreme) true

/-- R136, the row V = 0: every flavour writes the result. -/
theorem complete_ok_of_representable {w : Width} {sg : Sign} {x : Int} (hx : Representable w sg x) (fl : Flavour)
    (s : State) : complete s (applyFlavour fl w sg (.ok x)) = afterResult s (resultPattern w sg x) false := by
  rw [applyFlavour_ok_representable hx, complete_writeResult]

/-- R136, the rows V = 1. -/
theorem complete_ok_of_not_representable {w : Width} {sg : Sign} {x : Int} (hx : ¬ Representable w sg x) (fl : Flavour)
    (s : State) :
    complete s (applyFlavour fl w sg (.ok x)) = afterOverflow w sg x (saturated w sg x) s fl := by
  rw [applyFlavour_ok_overflow hx]
  cases fl <;> rfl

/-- R137: every flavour raises the error, and OV is 0. -/
theorem complete_applyFlavour_err {e : ErrCode} (he : e ≠ .overflow) (fl : Flavour) (w : Width) (sg : Sign)
    (s : State) : complete s (applyFlavour fl w sg (.err e)) = afterError s e false := by
  rw [applyFlavour_err, complete_raiseError, decide_eq_false he]

/-- R138: the wrapping flavours write the unadjusted remainder, and saturation is at the top. -/
theorem complete_euOvf (w : Width) (sg : Sign) (r x : Int) (fl : Flavour) (s : State) :
    complete s (applyFlavour fl w sg (.euOvf r x)) = afterOverflow w sg r (maxVal w sg) s fl := by
  cases fl <;> rfl

/-- Settles O8: each clause is the rule of its table, and a number that does not fit saturates to the extreme it lies
beyond. -/
theorem flavourTablesSayWhatACompletionWrites : Obligations.FlavourTablesSayWhatACompletionWrites := by
  intro w sg s x
  refine ⟨fun hx fl => complete_ok_of_representable hx fl s, fun hx => ?_, fun fl e he => ?_, fun r => ?_⟩
  · simp only [complete_ok_of_not_representable hx, afterOverflow, true_and, and_true]
    exact ⟨fun habove => by rw [saturated_of_above habove], fun hbelow => by rw [saturated_of_below hbelow]⟩
  · have hne : e ≠ .overflow := by rcases he with rfl | rfl <;> decide
    exact complete_applyFlavour_err hne fl w sg s
  · simp only [complete_euOvf, afterOverflow, true_and]

end Sys2Proof.Machine

/-! # MUL in its five flavours

How the exact result of a command reaches the five rows of 40_arith_common.md R136, and that MUL's is the floored
product (41_multiply.md R151). -/

namespace Sys2Proof.Machine

/-- f from 0 to N lies in the FRAC range of every operation (30_encoding.md R100). -/
theorem fracLegal_of_nonneg_of_le {w : Width} {f : Frac} (hnonneg : 0 ≤ f.toInt) (hle : f.toInt ≤ w.bits) (op : Op) :
    fracLegal op w f = true := by
  cases op <;> simp only [fracLegal, Bool.and_eq_true, decide_eq_true_eq] <;> omega

/-! ## The five commands of an operation, by flavour -/

/-- R136 for a whole operation: five commands whose outcome is the same exact result x fill the rows of its table (O8). -/
theorem flavourRows_of_ok {w : Width} {sg : Sign} {s : State} {l : Latch} {x : Int} (hl : s.inflight = some l)
    {i : Flavour → Instr} (hi : ∀ fl, resultOf (i fl) l = applyFlavour fl w sg (.ok x)) :
    FlavourRows w sg s x (i .unchecked) (i .checked) (i .wrapping) (i .saturating) (i .overflowing) := by
  have hexec : ∀ fl, exec (i fl) s = .next (complete s (applyFlavour fl w sg (.ok x))) := fun fl => by
    rw [exec_of_inflight hl, hi]
  obtain ⟨hfits, hoverflows, -, -⟩ := flavourTablesSayWhatACompletionWrites w sg s x
  refine ⟨fun hx => ?_, fun hx => ?_⟩
  · simp only [AllWrite, List.forall_mem_cons, hexec, hfits hx, List.not_mem_nil, false_imp_iff, implies_true, and_true]
  · simpa only [hexec, Host.Outcome.next.injEq] using hoverflows hx

/-! ## MUL -/

/-- The MUL of a flavour. -/
def mulOf (w : Width) (sg : Sign) (f : Frac) : Flavour → Instr
  | .unchecked => .mul w sg f
  | .checked => .mulC w sg f
  | .wrapping => .mulW w sg f
  | .saturating => .mulS w sg f
  | .overflowing => .mulO w sg f

theorem resultOf_mulOf (w : Width) (sg : Sign) (f : Frac) (fl : Flavour) (l : Latch) :
    resultOf (mulOf w sg f fl) l = applyFlavour fl w sg (mulOutcome w sg f l) := by
  cases fl <;> rfl

theorem mulOutcome_of_fracLegal {w : Width} {f : Frac} (hf : fracLegal .mul w f = true) (sg : Sign) (l : Latch) :
    mulOutcome w sg f l = .ok (floorShift (val w sg l.opa * val w sg l.opb) (fracCount f)) :=
  if_pos hf

/-- R151: the two inequalities fix the exact result as the floored product. -/
theorem mulOutcome_eq_ok {w : Width} {sg : Sign} {f : Frac} {l : Latch} {x : Int} (hf : fracLegal .mul w f = true)
    (hlower : x * 2 ^ f.toInt.toNat ≤ val w sg l.opa * val w sg l.opb)
    (hupper : val w sg l.opa * val w sg l.opb < (x + 1) * 2 ^ f.toInt.toNat) : mulOutcome w sg f l = .ok x := by
  have hfloor : floorShift (val w sg l.opa * val w sg l.opb) (fracCount f) = x :=
    (floorShift_eq_iff _ _ _).mpr (by push_cast; exact ⟨hlower, hupper⟩)
  rw [mulOutcome_of_fracLegal hf, hfloor]

/-- Settles O9: every MUL of the family has the floored product as its outcome, so R136 says what each writes. -/
theorem mulWritesTheFlooredProduct : Obligations.MulWritesTheFlooredProduct := by
  intro w sg f s l x hl hnonneg hle hlower hupper
  have hlegal := fracLegal_of_nonneg_of_le hnonneg hle .mul
  exact flavourRows_of_ok hl (i := mulOf w sg f) fun fl => by
    rw [resultOf_mulOf, mulOutcome_eq_ok hlegal hlower hupper]

end Sys2Proof.Machine

/-! # DIV and the corners of the remainders at MIN

DIV's exact result is the truncated quotient (42_divide_remainder.md R160, R161), and two corners at A = MIN: the
divisor −1, where only DIV overflows (R165), and the realignment of REMI that overflows (R171). -/

namespace Sys2Proof.Machine

/-! ## The truncated quotient and its remainder -/

/-- R161: a remainder smaller than the divisor and with the sign of the dividend, or zero, fixes the truncated quotient
(00_scope.md section 5.1). -/
theorem tdiv_tmod_of_remainder {a b q r : Int} (heq : a = q * b + r) (hlt : |r| < |b|) (hsign : 0 ≤ r * a) :
    a.tdiv b = q ∧ a.tmod b = r := by
  have hb : b ≠ 0 := abs_pos.mp ((abs_nonneg r).trans_lt hlt)
  have hsum : r + b * q = a := by rw [heq, mul_comm, add_comm]
  rw [Int.abs_eq_natAbs b] at hlt
  rcases mul_nonneg_iff.mp hsign with ⟨hr, ha⟩ | ⟨hr, ha⟩
  · exact (Int.tdiv_tmod_unique ha hb).mpr ⟨hsum, hr, (le_abs_self r).trans_lt hlt⟩
  · exact (Int.tdiv_tmod_unique' ha hb).mpr ⟨hsum, (abs_lt.mp hlt).1, hr⟩

/-! ## DIV -/

/-- The DIV of a flavour. -/
def divOf (w : Width) (sg : Sign) (f : Frac) : Flavour → Instr
  | .unchecked => .div w sg f
  | .checked => .divC w sg f
  | .wrapping => .divW w sg f
  | .saturating => .divS w sg f
  | .overflowing => .divO w sg f

theorem resultOf_divOf (w : Width) (sg : Sign) (f : Frac) (fl : Flavour) (l : Latch) :
    resultOf (divOf w sg f fl) l = applyFlavour fl w sg (divOutcome w sg f l) := by
  cases fl <;> rfl

theorem divOutcome_of_ne_zero {w : Width} {sg : Sign} {f : Frac} {l : Latch} (hf : fracLegal .div w f = true)
    (hb : val w sg l.opb ≠ 0) :
    divOutcome w sg f l = .ok ((val w sg l.opa * 2 ^ f.toInt.toNat).tdiv (val w sg l.opb)) := by
  simp only [divOutcome, if_pos hf, if_neg hb, exactShift, fracCount, Nat.cast_pow, Nat.cast_ofNat]

/-- Settles O10: the remainder's size and sign fix DIV's outcome as the truncated quotient, so R136 says what each
flavour writes. -/
theorem divWritesTheTruncatedQuotient : Obligations.DivWritesTheTruncatedQuotient := by
  intro w sg f s l x r hl hnonneg hle hb heq hlt hsign
  have hsign' : 0 ≤ r * (val w sg l.opa * 2 ^ f.toInt.toNat) := by
    rw [← mul_assoc]
    exact mul_nonneg hsign (by positivity)
  have hquot := (tdiv_tmod_of_remainder heq hlt hsign').1
  have hlegal := fracLegal_of_nonneg_of_le hnonneg hle .div
  exact flavourRows_of_ok hl (i := divOf w sg f) fun fl => by
    rw [resultOf_divOf, divOutcome_of_ne_zero hlegal hb, hquot]

/-! ## The signed range (00_scope.md section 5.2) -/

theorem representable_zero (w : Width) (sg : Sign) : Representable w sg 0 :=
  ⟨minVal_nonpos w sg, maxVal_nonneg w sg⟩

theorem maxVal_signed_eq (w : Width) : maxVal w .signed = -minVal w .signed - 1 := by
  simp only [maxVal, minVal, neg_neg]

/-- −MIN is just above MAX, and a shift to the left takes it no lower. -/
theorem maxVal_lt_neg_minVal_mul (w : Width) (k : Nat) : maxVal w .signed < -minVal w .signed * 2 ^ k := by
  have hmin := minVal_nonpos w .signed
  calc maxVal w .signed < -minVal w .signed := by rw [maxVal_signed_eq]; omega
    _ ≤ -minVal w .signed * 2 ^ k := le_mul_of_one_le_right (by omega) (one_le_pow₀ one_le_two)

theorem not_representable_neg_minVal_mul (w : Width) (k : Nat) :
    ¬ Representable w .signed (-minVal w .signed * 2 ^ k) :=
  fun hx => (maxVal_lt_neg_minVal_mul w k).not_ge hx.2

/-! ## REM and REMEU -/

/-- The REM of a flavour. -/
def remOf (w : Width) (sg : Sign) (f : Frac) : Flavour → Instr
  | .unchecked => .rem w sg f
  | .checked => .remC w sg f
  | .wrapping => .remW w sg f
  | .saturating => .remS w sg f
  | .overflowing => .remO w sg f

theorem resultOf_remOf (w : Width) (sg : Sign) (f : Frac) (fl : Flavour) (l : Latch) :
    resultOf (remOf w sg f fl) l = applyFlavour fl w sg (remOutcome w sg f l) := by
  cases fl <;> rfl

/-- The REMEU of a flavour. -/
def remeuOf (w : Width) (sg : Sign) (f : Frac) : Flavour → Instr
  | .unchecked => .remeu w sg f
  | .checked => .remeuC w sg f
  | .wrapping => .remeuW w sg f
  | .saturating => .remeuS w sg f
  | .overflowing => .remeuO w sg f

theorem resultOf_remeuOf (w : Width) (sg : Sign) (f : Frac) (fl : Flavour) (l : Latch) :
    resultOf (remeuOf w sg f fl) l = applyFlavour fl w sg (remeuOutcome w sg f l) := by
  cases fl <;> rfl

theorem remOutcome_of_ne_zero {w : Width} {sg : Sign} {f : Frac} {l : Latch} (hf : fracLegal .rem w f = true)
    (hb : val w sg l.opb ≠ 0) : remOutcome w sg f l = .ok ((val w sg l.opa).tmod (val w sg l.opb)) := by
  rw [remOutcome, if_pos hf, if_neg hb, remValue_eq]

theorem remeuOutcome_of_ne_zero {w : Width} {sg : Sign} {f : Frac} {l : Latch} (hf : fracLegal .remeu w f = true)
    (hb : val w sg l.opb ≠ 0) :
    remeuOutcome w sg f l
      = euclideanOutcome w sg ((val w sg l.opa).tmod (val w sg l.opb)) |val w sg l.opb| := by
  rw [remeuOutcome, if_pos hf, if_neg hb, remValue_eq]

/-- R164: a remainder that is not negative needs no adjustment. -/
theorem euclideanOutcome_of_nonneg {r : Int} (hr : 0 ≤ r) (w : Width) (sg : Sign) (d : Int) :
    euclideanOutcome w sg r d = .ok r :=
  if_pos hr

theorem tmod_neg_one (a : Int) : a.tmod (-1) = 0 := by
  rw [Int.tmod_neg, Int.tmod_one]

/-- Settles O17: everything is divisible by −1, so both remainders are 0, but the quotient −MIN · 2^f lies above
MAX (R165). -/
theorem minRemMinusOneIsZeroThoughDivOverflows : Obligations.MinRemMinusOneIsZeroThoughDivOverflows := by
  intro w f s l hl hnonneg hle ha hb
  have hlegal := fracLegal_of_nonneg_of_le hnonneg hle
  have hne : val w .signed l.opb ≠ 0 := by rw [hb]; decide
  have hzero := representable_zero w .signed
  have hrem : remOutcome w .signed f l = .ok 0 := by
    rw [remOutcome_of_ne_zero (hlegal .rem) hne, hb, tmod_neg_one]
  have hremeu : remeuOutcome w .signed f l = .ok 0 := by
    rw [remeuOutcome_of_ne_zero (hlegal .remeu) hne, hb, tmod_neg_one, euclideanOutcome_of_nonneg le_rfl]
  have hremRows := flavourRows_of_ok hl (i := remOf w .signed f) fun fl => by rw [resultOf_remOf, hrem]
  have hremeuRows := flavourRows_of_ok hl (i := remeuOf w .signed f) fun fl => by rw [resultOf_remeuOf, hremeu]
  have hdivRows := divWritesTheTruncatedQuotient w .signed f s l (-minVal w .signed * 2 ^ f.toInt.toNat) 0 hl hnonneg
    hle hne (by rw [ha, hb]; ring) (by rw [hb]; decide) (by rw [zero_mul])
  exact ⟨List.forall_mem_append.mpr ⟨hremRows.1 hzero, hremeuRows.1 hzero⟩,
    (hdivRows.2 (not_representable_neg_minVal_mul w _)).1⟩

/-! ## REMI -/

/-- The REMI of a flavour. -/
def remiOf (w : Width) (sg : Sign) (f : Frac) : Flavour → Instr
  | .unchecked => .remi w sg f
  | .checked => .remiC w sg f
  | .wrapping => .remiW w sg f
  | .saturating => .remiS w sg f
  | .overflowing => .remiO w sg f

theorem resultOf_remiOf (w : Width) (sg : Sign) (f : Frac) (fl : Flavour) (l : Latch) :
    resultOf (remiOf w sg f fl) l = applyFlavour fl w sg (remiOutcome w sg f l) := by
  cases fl <;> rfl

theorem remiOutcome_of_ne_zero {w : Width} {sg : Sign} {f : Frac} {l : Latch} (hf : fracLegal .remi w f = true)
    (hb : val w sg l.opb ≠ 0) :
    remiOutcome w sg f l = .ok (remiValue w sg f.toInt.toNat (val w sg l.opa) (val w sg l.opb)) := by
  rw [remiOutcome, if_pos hf, if_neg hb, fracCount]

/-- R166: where the realigned divisor is not representable, REMI's value is the dividend. -/
theorem remiValue_of_not_representable {w : Width} {sg : Sign} {k : Nat} {d : Int}
    (hd : ¬ Representable w sg (d * 2 ^ k)) (a : Int) : remiValue w sg k a d = a := by
  have hshift : ¬ Representable w sg (exactShift d k) := by
    rwa [exactShift, Nat.cast_pow, Nat.cast_ofNat]
  rw [remiValue, if_neg hshift, ite_self]

/-- The realigned divisor of R171's corner is 2^(N−1), which is −MIN. -/
theorem two_pow_mul_two_pow_eq_neg_minVal {w : Width} {k : Nat} (hk : k ≤ w.bits - 1) :
    (2 : Int) ^ (w.bits - 1 - k) * 2 ^ k = -minVal w .signed := by
  rw [pow_sub_mul_pow 2 hk, minVal, neg_neg, Nat.cast_pow, Nat.cast_ofNat]

/-- Settles O18: the realigned divisor is −MIN, which divides MIN but is not representable, so the boundary rule of
R166 writes the dividend. -/
theorem remiReturnsMinWhereTheRealignedDivisorOverflows :
    Obligations.RemiReturnsMinWhereTheRealignedDivisorOverflows := by
  intro w f s l hl hone hle ha hb
  have hrealigned : val w .signed l.opb * 2 ^ f.toInt.toNat = -minVal w .signed := by
    rw [hb, two_pow_mul_two_pow_eq_neg_minVal (by omega)]
  have hoverflows : ¬ Representable w .signed (val w .signed l.opb * 2 ^ f.toInt.toNat) := by
    simpa only [hrealigned, pow_zero, mul_one] using not_representable_neg_minVal_mul w 0
  have hne : val w .signed l.opb ≠ 0 := by rw [hb]; positivity
  have hlegal := fracLegal_of_nonneg_of_le (w := w) (f := f) (by omega) (by omega) .remi
  have hoperand : Representable w .signed (minVal w .signed) := ha ▸ val_representable w .signed l.opa
  have hrows := flavourRows_of_ok hl (i := remiOf w .signed f) fun fl => by
    rw [resultOf_remiOf, remiOutcome_of_ne_zero hlegal hne, remiValue_of_not_representable hoverflows, ha]
  refine ⟨hoverflows, hrows.1 hoperand, ?_⟩
  rw [hrealigned, ha, neg_dvd]

end Sys2Proof.Machine

/-! # SQRT

The root that SQRT computes is the floor root (45_sqrt.md R231), and what each of its outcomes writes (R236). -/

namespace Sys2Proof.Machine

/-! ## The integer square root (45_sqrt.md R231) -/

/-- The bits of the root below bit `n` close in on it: while the root lies in [r, r + 2^n), the result is the root. -/
theorem rootBits_isFloorRoot {x n r : Nat} (hlower : r * r ≤ x) (hupper : x < (r + 2 ^ n) * (r + 2 ^ n)) :
    rootBits x n r * rootBits x n r ≤ x ∧ x < (rootBits x n r + 1) * (rootBits x n r + 1) := by
  induction n generalizing r with
  | zero => exact ⟨hlower, hupper⟩
  | succ n ih =>
    rw [rootBits]
    split_ifs with hbit
    · exact ih hbit (by rwa [add_assoc, ← two_mul, ← pow_succ'])
    · exact ih hlower (not_le.mp hbit)

/-- The model's root is the library's. -/
theorem isqrt_eq_sqrt (x : Nat) : isqrt x = x.sqrt := by
  have hupper : x < (0 + 2 ^ (x.log2 + 1)) * (0 + 2 ^ (x.log2 + 1)) := by
    rw [zero_add]
    exact Nat.lt_log2_self.trans_le (Nat.le_mul_self _)
  exact Nat.eq_sqrt.mpr (rootBits_isFloorRoot x.zero_le hupper)

/-- R231: the two inequalities fix the root. -/
theorem isqrt_toNat_eq {a r : Int} (hr : 0 ≤ r) (hlower : r * r ≤ a) (hupper : a < (r + 1) * (r + 1)) :
    (isqrt a.toNat : Int) = r := by
  have ha : 0 ≤ a := (mul_self_nonneg r).trans hlower
  lift r to Nat using hr
  lift a to Nat using ha
  have hroot : r = a.sqrt := Nat.eq_sqrt.mpr ⟨by exact_mod_cast hlower, by exact_mod_cast hupper⟩
  rw [Int.toNat_natCast, isqrt_eq_sqrt, hroot]

/-! ## The outcomes of SQRT (45_sqrt.md R235) -/

/-- For A ≥ 0 the outcome is the root: the case A = 0, which R235 takes apart, is no exception. -/
theorem sqrtOutcome_of_nonneg {w : Width} {sg : Sign} {f : Frac} {l : Latch} (hf : fracLegal .sqrt w f = true)
    (ha : 0 ≤ val w sg l.opa) :
    sqrtOutcome w sg f l = .ok (isqrt (val w sg l.opa * 2 ^ f.toInt.toNat).toNat) := by
  have hdomain : ¬ (sg = .signed ∧ val w sg l.opa < 0) := fun h => h.2.not_ge ha
  rw [sqrtOutcome, if_pos hf, if_neg hdomain]
  split_ifs with hzero
  · rw [hzero, zero_mul]
    rfl
  · rw [exactShift, fracCount, Nat.cast_pow, Nat.cast_ofNat]

/-- Only a signed operand is negative, so A < 0 alone makes the outcome Domain. -/
theorem sqrtOutcome_of_neg {w : Width} {sg : Sign} {f : Frac} {l : Latch} (hf : fracLegal .sqrt w f = true)
    (ha : val w sg l.opa < 0) : sqrtOutcome w sg f l = .domain := by
  have hsigned : sg = .signed := by
    cases sg with
    | signed => rfl
    | unsigned => exact absurd ha (Int.natCast_nonneg _).not_gt
  rw [sqrtOutcome, if_pos hf, if_neg ha.ne, if_pos ⟨hsigned, ha⟩]

theorem sqrtOutcome_of_illegal {w : Width} {f : Frac} (hf : fracLegal .sqrt w f = false) (sg : Sign) (l : Latch) :
    sqrtOutcome w sg f l = .err .illegal :=
  if_neg (Bool.eq_false_iff.mp hf)

theorem fracLegal_sqrt_eq_false {w : Width} {f : Frac} (hf : f.toInt < 0 ∨ (w.bits : Int) < f.toInt) :
    fracLegal .sqrt w f = false := by
  simp only [fracLegal, Bool.and_eq_false_iff, decide_eq_false_iff_not]
  omega

/-! ## What SQRT writes (45_sqrt.md R236) -/

/-- R236 reads each flavour's row off the outcome. -/
theorem exec_sqrt_of_outcome {w : Width} {sg : Sign} {f : Frac} {s : State} {l : Latch} {o : SqrtOutcome}
    (hl : s.inflight = some l) (ho : sqrtOutcome w sg f l = o) :
    exec (.sqrt w sg f) s = .next (complete s (sqrtUnchecked w sg o))
      ∧ exec (.sqrtC w sg f) s = .next (complete s (sqrtChecked w sg o)) := by
  subst ho
  exact ⟨exec_of_inflight hl _, exec_of_inflight hl _⟩

/-- R236, the row V = 0: both flavours write the root. -/
theorem allWrite_of_sqrtOutcome {w : Width} {sg : Sign} {f : Frac} {s : State} {l : Latch} {r : Int}
    (hl : s.inflight = some l) (ho : sqrtOutcome w sg f l = .ok r) (hr : Representable w sg r) :
    AllWrite w sg s r [.sqrt w sg f, .sqrtC w sg f] := by
  obtain ⟨hunchecked, hchecked⟩ := exec_sqrt_of_outcome hl ho
  rw [sqrtUnchecked, if_pos hr, complete_writeResult] at hunchecked
  rw [sqrtChecked, if_pos hr, complete_writeResult] at hchecked
  exact List.forall_mem_cons.mpr ⟨hunchecked, List.forall_mem_singleton.mpr hchecked⟩

/-- R236, the rows V = 1: OVERFLOW and the absent result. -/
theorem exec_sqrt_of_overflow {w : Width} {sg : Sign} {f : Frac} {s : State} {l : Latch} {r : Int}
    (hl : s.inflight = some l) (ho : sqrtOutcome w sg f l = .ok r) (hr : ¬ Representable w sg r) :
    exec (.sqrt w sg f) s = .next (afterError s .overflow true)
      ∧ exec (.sqrtC w sg f) s = .next (afterAbsent s true) := by
  obtain ⟨hunchecked, hchecked⟩ := exec_sqrt_of_outcome hl ho
  rw [sqrtUnchecked, if_neg hr] at hunchecked
  rw [sqrtChecked, if_neg hr] at hchecked
  exact ⟨hunchecked, hchecked⟩

/-- A representable result that is not negative fills all 128 bits of RES with its own value: the bits above it are 0
under either extension (R236). -/
theorem toNat_resultPattern_of_nonneg {w : Width} {sg : Sign} {x : Int} (hx : Representable w sg x) (hnonneg : 0 ≤ x) :
    ((resultPattern w sg x).toNat : Int) = x := by
  cases sg with
  | unsigned => rw [toNat_resultPattern_unsigned, val_resultPattern hx]
  | signed =>
    have hval : (resultPattern w .signed x).toInt = x := by rw [toInt_resultPattern_signed, val_resultPattern hx]
    have hsign : 2 * (resultPattern w .signed x).toNat < 2 ^ 128 :=
      not_le.mp (mt BitVec.toInt_neg_iff.mpr (by omega))
    rw [← BitVec.toInt_eq_toNat_of_lt hsign, hval]

/-- Settles O20: the inequalities make A non-negative and fix its root, so each clause is one outcome of R235 and the
row R236 has for it. -/
theorem sqrtWritesTheFloorRoot : Obligations.SqrtWritesTheFloorRoot := by
  intro w sg f s l hl
  refine ⟨fun hnonneg hle r hr hlower hupper => ?_, fun hnonneg hle ha => ?_, fun hout => ?_⟩
  · have hpow : (0 : Int) < 2 ^ f.toInt.toNat := by positivity
    have ha : 0 ≤ val w sg l.opa := nonneg_of_mul_nonneg_left ((mul_self_nonneg r).trans hlower) hpow
    have hroot : sqrtOutcome w sg f l = .ok r := by
      rw [sqrtOutcome_of_nonneg (fracLegal_of_nonneg_of_le hnonneg hle .sqrt) ha, isqrt_toNat_eq hr hlower hupper]
    exact ⟨fun hx => ⟨allWrite_of_sqrtOutcome hl hroot hx, toNat_resultPattern_of_nonneg hx hr⟩,
      exec_sqrt_of_overflow hl hroot⟩
  · exact exec_sqrt_of_outcome hl (sqrtOutcome_of_neg (fracLegal_of_nonneg_of_le hnonneg hle .sqrt) ha)
  · exact exec_sqrt_of_outcome hl (sqrtOutcome_of_illegal (fracLegal_sqrt_eq_false hout) sg l)

end Sys2Proof.Machine

/-! # Rendered text

How long a rendered text can be (46_render.md R273), so that TXTLEN holds its length, and what the five render commands
write (R274). -/

namespace Sys2Proof.Machine

/-! ## The number of digits (46_render.md R255, R261) -/

/-- Rounding never exceeds the numerator: where it rounds up, the part rounded away is not 0. -/
theorem roundHalfEven_le (num f : Nat) : roundHalfEven num f ≤ num := by
  have hdecomp := Nat.div_add_mod' num (2 ^ f)
  have hfloor : num / 2 ^ f ≤ num / 2 ^ f * 2 ^ f := Nat.le_mul_of_pos_right _ (Nat.two_pow_pos f)
  have hpos := Nat.two_pow_pos f
  simp only [roundHalfEven]
  split_ifs <;> omega

/-- R261: a number below b^n has at most n digits in base b. -/
theorem digitsInto_length_le {b u n : Nat} (hu : u < b ^ n) (fuel : Nat) (acc : List Nat) :
    (digitsInto b fuel u acc).length ≤ n + acc.length := by
  induction fuel generalizing u n acc with
  | zero => exact Nat.le_add_left _ _
  | succ fuel ih =>
    rw [digitsInto]
    split_ifs with hzero
    · exact Nat.le_add_left _ _
    · cases n with
      | zero => exact absurd (Nat.lt_one_iff.mp hu) hzero
      | succ n =>
        have hdigits := ih (Nat.div_lt_of_lt_mul (by rwa [← pow_succ'])) (u % b :: acc)
        rw [List.length_cons] at hdigits
        omega

theorem two_le_radixBase (r : Radix) : 2 ≤ radixBase r := by cases r <;> decide

/-- R273: an integer part below 2^128 has at most 128 digits in every radix. -/
theorem roundedDigits_length_le {mag : Nat} (hmag : mag < 2 ^ 128) (r : Radix) (f k : Nat) :
    (roundedDigits r f mag k).length ≤ k + 128 := by
  have hbound : roundHalfEven (mag * radixBase r ^ k) f < radixBase r ^ (k + 128) := by
    have hbase := two_le_radixBase r
    have hpow : 0 < radixBase r ^ k := Nat.pow_pos (by omega)
    calc roundHalfEven (mag * radixBase r ^ k) f
        ≤ mag * radixBase r ^ k := roundHalfEven_le _ f
      _ < 2 ^ 128 * radixBase r ^ k := Nat.mul_lt_mul_of_pos_right hmag hpow
      _ ≤ radixBase r ^ 128 * radixBase r ^ k := Nat.mul_le_mul_right _ (Nat.pow_le_pow_left hbase 128)
      _ = radixBase r ^ (k + 128) := by rw [← pow_add, add_comm]
  have hdigits : (digitsOf (radixBase r) (roundHalfEven (mag * radixBase r ^ k) f)).length ≤ k + 128 :=
    digitsInto_length_le hbound _ []
  rw [roundedDigits, padDigits, List.length_append, List.length_replicate]
  omega

theorem trimZeros_length_le (ds : List Nat) : (trimZeros ds).length ≤ ds.length := by
  simpa only [trimZeros, List.length_reverse] using List.length_dropWhile_le (· == 0) ds.reverse

/-- The body is the digits, or fewer, and at most one point (46_render.md R260). -/
theorem digitBody_length_le (r : Radix) (k : Nat) (trim : Bool) (ds : List Nat) :
    (digitBody r k trim ds).length ≤ ds.length + 1 := by
  have hkept : (if trim then trimZeros (ds.drop (ds.length - k)) else ds.drop (ds.length - k)).length
      ≤ (ds.drop (ds.length - k)).length := by
    split_ifs
    · exact trimZeros_length_le _
    · exact le_rfl
  rw [List.length_drop] at hkept
  simp only [digitBody, List.length_append, List.length_map, List.length_take]
  split_ifs at hkept ⊢ <;> simp only [List.length_cons, List.length_nil, List.length_map] <;> omega

/-! ## The fractional digit count (46_render.md R254) -/

theorem autoSearch_le (fr f fuel k : Nat) : autoSearch fr f fuel k ≤ k + fuel := by
  induction fuel generalizing k with
  | zero => exact le_rfl
  | succ fuel ih =>
    rw [autoSearch]
    have hnext := ih (k + 1)
    split_ifs <;> omega

theorem autoDecimalDigits_le (fr f : Nat) : autoDecimalDigits fr f ≤ f :=
  (autoSearch_le fr f f 0).trans_eq (zero_add f)

/-- PREC has eight bits, and the natural counts of R257 and R258 are at most f. -/
theorem fracDigitCount_le {f : Nat} (hf : f ≤ 255) (r : Radix) (mag : Nat) (rcfg : Word32) :
    fracDigitCount r f mag rcfg ≤ 255 := by
  rw [fracDigitCount]
  split_ifs
  · have hprec := (rcfg.extractLsb' 1 8).isLt
    simp only [rcfgPrec]
    omega
  · have hauto := autoDecimalDigits_le (mag % 2 ^ f) f
    cases r <;> simp only [digitBits] <;> omega

/-! ## The length of the text (46_render.md R273) -/

theorem renderMag_lt (w : Width) (sg : Sign) (opa : Word128) : renderMag w sg opa < 2 ^ 128 := by
  have hwidth : 2 ^ w.bits ≤ 2 ^ 128 := Nat.pow_le_pow_right (by decide) (bits_le_128 w)
  have hhalf : 2 ^ (w.bits - 1) < 2 ^ w.bits := Nat.pow_lt_pow_right (by decide) (by have := bits_pos w; omega)
  obtain ⟨hmin, hmax⟩ := val_representable w sg opa
  rw [renderMag]
  cases sg <;> simp only [minVal, maxVal] at hmin hmax <;> omega

theorem renderBody_length_le {w : Width} {f : Nat} (hf : f ≤ w.bits) (r : Radix) (sg : Sign) (opa : Word128)
    (rcfg : Word32) : (renderBody r w sg f opa rcfg).length ≤ 384 := by
  have hf255 : f ≤ 255 := hf.trans ((bits_le_128 w).trans (by decide))
  have hcount := fracDigitCount_le hf255 r (renderMag w sg opa) rcfg
  calc (renderBody r w sg f opa rcfg).length
      ≤ (roundedDigits r f (renderMag w sg opa) (fracDigitCount r f (renderMag w sg opa) rcfg)).length + 1 :=
        digitBody_length_le _ _ _ _
    _ ≤ fracDigitCount r f (renderMag w sg opa) rcfg + 128 + 1 :=
        Nat.add_le_add_right (roundedDigits_length_le (renderMag_lt w sg opa) _ _ _) 1
    _ ≤ 384 := by omega

theorem signText_length_le (neg : Bool) (rcfg : Word32) : (signText neg rcfg).length ≤ 1 := by
  rw [signText]
  split_ifs <;> simp

theorem prefixText_length_le (r : Radix) (rcfg : Word32) : (prefixText r rcfg).length ≤ 2 := by
  rw [prefixText]
  split_ifs
  · cases r <;> decide
  · exact Nat.zero_le 2

/-- Padding brings the content to WIDTH, wherever it puts the fill (46_render.md R264 to R268). -/
theorem padText_length (rcfg : Word32) (sign pre body : List Byte) :
    (padText rcfg sign pre body).length = max (rcfgWidth rcfg) (sign ++ pre ++ body).length := by
  simp only [padText]
  split_ifs
  · simp only [List.length_append, List.length_replicate]
    omega
  · cases rcfgAlign rcfg <;> simp only [fillText, List.length_append, List.length_replicate] <;> omega

/-- R273: sign, prefix and body have at most 1, 2 and 384 bytes, and WIDTH is at most 255. -/
theorem render_length_le {w : Width} {f : Nat} (hf : f ≤ w.bits) (r : Radix) (sg : Sign) (opa : Word128)
    (rcfg : Word32) : (render r w sg f opa rcfg).length ≤ 387 := by
  have hsign := signText_length_le (renderNeg w sg opa) rcfg
  have hprefix := prefixText_length_le r rcfg
  have hbody := renderBody_length_le hf r sg opa rcfg
  have hwidth : rcfgWidth rcfg < 256 := (rcfg.extractLsb' 9 8).isLt
  rw [render, padText_length, List.length_append, List.length_append]
  omega

/-! ## The five render commands (46_render.md R274 to R279) -/

/-- The operation of a radix. -/
def renderOp : Radix → Op
  | .dec => .rdec
  | .bin => .rbin
  | .oct => .roct
  | .hexLower => .rhexl
  | .hexUpper => .rhexu

/-- The render command of a radix. -/
def renderOf (w : Width) (sg : Sign) (f : Frac) : Radix → Instr
  | .dec => .rdec w sg f
  | .bin => .rbin w sg f
  | .oct => .roct w sg f
  | .hexLower => .rhexl w sg f
  | .hexUpper => .rhexu w sg f

theorem resultOf_renderOf (w : Width) (sg : Sign) (f : Frac) (r : Radix) (l : Latch) :
    resultOf (renderOf w sg f r) l = renderCompletion (renderOp r) r w sg f l := by
  cases r <;> rfl

theorem fracLegal_renderOp_iff {r : Radix} {w : Width} {f : Frac} :
    fracLegal (renderOp r) w f = true ↔ 0 ≤ f.toInt ∧ f.toInt ≤ w.bits := by
  cases r <;> simp [renderOp, fracLegal]

/-- Completion with a text (46_render.md R274): TXT, TXTLEN and STATUS are written, and INFLIGHT. -/
def afterText (s : State) (text : List Byte) : State :=
  { s with
    txt := Memory.ofBytes text, txtlen := BitVec.ofNat 32 text.length, ov := false, absent := false, err := .none
    done := true, inflight := none }

theorem exec_renderOf_of_legal {w : Width} {sg : Sign} {f : Frac} {s : State} {l : Latch} {r : Radix}
    (hl : s.inflight = some l) (hf : fracLegal (renderOp r) w f = true) :
    exec (renderOf w sg f r) s = .next (afterText s (render r w sg f.toInt.toNat l.opa l.rcfg)) := by
  rw [exec_of_inflight hl, resultOf_renderOf, renderCompletion, if_pos hf]
  rfl

theorem exec_renderOf_of_illegal {w : Width} {sg : Sign} {f : Frac} {s : State} {l : Latch} {r : Radix}
    (hl : s.inflight = some l) (hf : ¬ fracLegal (renderOp r) w f = true) :
    exec (renderOf w sg f r) s = .next (afterError s .illegal false) := by
  rw [exec_of_inflight hl, resultOf_renderOf, renderCompletion, if_neg hf]
  rfl

/-- Settles O32: a text of at most 387 bytes is read back byte by byte from TXT and its length from TXTLEN, and an
illegal word completes with ILLEGAL whatever its OP. -/
theorem renderCommandsWriteTheText : Obligations.RenderCommandsWriteTheText := by
  refine ⟨fun w sg f s l hl p hp => ?_, fun s l _ hillegal hl hcount => ?_⟩
  · have hcommand : p.1 = renderOf w sg f p.2 := by
      simp only [List.mem_cons, List.not_mem_nil, or_false] at hp
      rcases hp with rfl | rfl | rfl | rfl | rfl <;> rfl
    rw [hcommand]
    refine ⟨fun hnonneg hle => ?_, fun hout => ?_⟩
    · have hlength := render_length_le (w := w) (f := f.toInt.toNat) (by omega) p.2 sg l.opa l.rcfg
      exact ⟨_, exec_renderOf_of_legal hl (fracLegal_renderOp_iff.mpr ⟨hnonneg, hle⟩), read_ofBytes _,
        Nat.mod_eq_of_lt (by omega), rfl⟩
    · exact exec_renderOf_of_illegal hl (by rw [fracLegal_renderOp_iff]; omega)
  · rw [step_of_due hl hcount]
    exact completionStep_of_illegalWord hillegal hl

end Sys2Proof.Machine

/-! # The reset input

What the host's reset action leaves behind (70_reset_and_hazards.md R330), said once for the reset input and, because
the power-on state is a fixed point of it, for power-on too. -/

namespace Sys2Proof.Machine

/-- The reset values of FXCORE's states, STATUS as the word the host reads (10_state.md R50). -/
def HoldsResetValues (t : State) : Prop :=
  t.opa = 0 ∧ t.opb = 0 ∧ t.opc = 0 ∧ t.res = 0 ∧ t.cmd = 0x00000000#32 ∧ t.rcfg = 0x08000000#32
    ∧ statusWord t = 0x00000000#32 ∧ t.txtlen = 0 ∧ (∀ k < 512, t.txt.read k = 0x00#8) ∧ t.inflight = none

/-- The reset input at the host's turn: of the state before it only the model's own fields go on. -/
theorem step_reset {s : State} {rest : List HostOp} (hdue : completionDue s = none)
    (hq : s.hostQueue = .reset :: rest) : step s = .next (resetInput { passStep s with hostQueue := rest }) := by
  rw [step_eq_hostStep hdue]
  simp only [hostStep, passStep_hostQueue, hq]

/-- With no command in flight and every stored field of STATUS clear, the word read is 0 (10_state.md R27, R28). -/
theorem statusWord_eq_zero {s : State} (hinflight : s.inflight = none) (hdone : s.done = false) (hov : s.ov = false)
    (habsent : s.absent = false) (herr : s.err = .none) (hcmdlost : s.cmdlost = false) : statusWord s = 0#32 := by
  simp only [statusWord, busy, hinflight, hdone, hov, habsent, herr, hcmdlost]
  decide

theorem resetInput_holdsResetValues (s : State) : HoldsResetValues (resetInput s) := by
  have hstatus : statusWord (resetInput s) = 0#32 :=
    statusWord_eq_zero (resetInput_inflight s) (resetInput_done s) (resetInput_ov s) (resetInput_absent s)
      (resetInput_err s) (resetInput_cmdlost s)
  have htxt (k : Nat) : (resetInput s).txt.read k = 0#8 := by rw [resetInput_txt, Memory.read]
  exact ⟨resetInput_opa s, resetInput_opb s, resetInput_opc s, resetInput_res s, resetInput_cmd s, resetInput_rcfg s,
    hstatus, resetInput_txtlen s, fun k _ => htxt k, resetInput_inflight s⟩

/-- A reset right after power-on changes nothing. -/
theorem resetInput_reset : resetInput State.reset = State.reset := rfl

/-- Settles O59: a step on the reset action is `resetInput`, whatever is in flight, and the power-on state is a state
that `resetInput` leaves. -/
theorem resetRestoresEveryResetValue : Obligations.ResetRestoresEveryResetValue := by
  have hpowerOn : HoldsResetValues State.reset := resetInput_reset ▸ resetInput_holdsResetValues State.reset
  exact ⟨fun s rest hdue hq => ⟨_, step_reset hdue hq, resetInput_holdsResetValues _⟩, hpowerOn⟩

end Sys2Proof.Machine

/-! # Encoding and decoding are inverse

A well-formed command's word decodes to it, and a word that decodes is the word of the command it decodes to
(30_encoding.md R91 to R102). -/

namespace Sys2Proof

/-- Well-formedness is the FRAC check of the decoder on the command's own fields (30_encoding.md R100). -/
theorem wellFormed_eq_fracLegal (i : Instr) : i.wellFormed = fracLegal i.fields.op i.fields.w i.fields.f := by
  simp only [Instr.wellFormed, fracLegal]
  cases i.fields.op <;> exact Bool.decide_and _ _

/-- The operation and the flavour of a command are its row of the opcode table, so its fields are those it was made
of (30_encoding.md R98). -/
theorem fields_of_instrOf {op : Op} {fl : Flavour} {w : Width} {sg : Sign} {f : Frac} {i : Instr}
    (h : instrOf op fl w sg f = some i) : i.fields = ⟨op, fl, w, sg, f⟩ := by
  unfold instrOf at h
  split at h <;> cases h <;> rfl

@[simp] theorem signCode_signOf (b : BitVec 1) : signCode (signOf b) = b := by
  revert b
  decide

/-- The six fields cover the word (30_encoding.md R91). -/
theorem packWord_fields (v : Word32) :
    packWord (reservedField v) (fracField v) (flavourField v) (signField v) (widthField v) (opField v) = v := by
  ext i hi
  simp [packWord, reservedField, fracField, flavourField, signField, widthField, opField]
  grind

/-- Settles O2: every field of the packed word reads back as its code, and the FRAC check is well-formedness. -/
theorem decodeOfEncodeIsTheCommand : Obligations.DecodeOfEncodeIsTheCommand := by
  intro i hwf
  refine decode_eq_ok_iff.mpr ⟨reservedField_packWord .., i.fields.op, i.fields.w, i.fields.fl, opField_packWord ..,
    widthField_packWord .., flavourField_packWord .., ?_, ?_⟩
  · rw [encode, signField_packWord, fracField_packWord, signOf_signCode, instrOf_fields]
  · rw [encode, fracField_packWord, ← wellFormed_eq_fracLegal, hwf]

/-- Settles O3: the codes of the decoded fields are the fields of the word, and the reserved field is 0. -/
theorem decodedCommandEncodesToItsWord : Obligations.DecodedCommandEncodesToItsWord := by
  intro v i h
  obtain ⟨hrsv, op, w, fl, hop, hw, hfl, hi, hf⟩ := decode_eq_ok_iff.mp h
  have hfields := fields_of_instrOf hi
  refine ⟨?_, ?_⟩
  · rw [encode, hfields]
    dsimp only
    rw [signCode_signOf, ← hop, ← hw, ← hfl, ← hrsv, packWord_fields]
  · rw [wellFormed_eq_fracLegal, hfields, hf]

/-- Settles O1: three words built by `encode` from the commands they stand for (O2), and three that fail one check of
R101 each. -/
theorem exampleWordsDecodeAsTheSpecWritesThem : Obligations.ExampleWordsDecodeAsTheSpecWritesThem := by
  have hmul : encode (.mul .w16 .unsigned 8#10) = 0x00010041#32 := by decide
  have hmuladd : encode (.muladdO .w32 .signed (BitVec.ofInt 10 (-4))) = 0x007F9283#32 := by decide
  have hrhexu : encode (.rhexu .w128 .unsigned 128#10) = 0x00100114#32 := by decide
  exact ⟨hmul ▸ decodeOfEncodeIsTheCommand _ (by decide), hmuladd ▸ decodeOfEncodeIsTheCommand _ (by decide),
    hrhexu ▸ decodeOfEncodeIsTheCommand _ (by decide), by decide, by decide, by decide⟩

end Sys2Proof

/-! # What a completion can write

Every completion is one of a few forms, said once here: an error writes STATUS alone (60_exceptions.md R302), and a
text fits TXT (46_render.md R273). The frame of the completion step and the invariant rest on this. -/

namespace Sys2Proof.Machine

/-! ## The results of the commands -/

/-- A command's result is a flavour applied to an arithmetic outcome, a row of SQRT's table, or a text. -/
theorem resultOf_cases (i : Instr) (l : Latch) :
    (readsRcfg i.fields.op = false ∧ ∃ o, resultOf i l = applyFlavour i.fields.fl i.fields.w i.fields.sg o)
      ∨ (readsRcfg i.fields.op = false ∧ ∃ o, resultOf i l = sqrtUnchecked i.fields.w i.fields.sg o)
      ∨ (readsRcfg i.fields.op = false ∧ ∃ o, resultOf i l = sqrtChecked i.fields.w i.fields.sg o)
      ∨ ∃ r, i.fields.op = renderOp r
          ∧ resultOf i l = renderCompletion (renderOp r) r i.fields.w i.fields.sg i.fields.f l := by
  simp only [resultOf]
  cases i.fields.op with
  | sqrt =>
    by_cases hfl : i.fields.fl = .checked
    · exact .inr (.inr (.inl ⟨rfl, _, if_pos hfl⟩))
    · exact .inr (.inl ⟨rfl, _, if_neg hfl⟩)
  | rdec => exact .inr (.inr (.inr ⟨.dec, rfl, rfl⟩))
  | rbin => exact .inr (.inr (.inr ⟨.bin, rfl, rfl⟩))
  | roct => exact .inr (.inr (.inr ⟨.oct, rfl, rfl⟩))
  | rhexl => exact .inr (.inr (.inr ⟨.hexLower, rfl, rfl⟩))
  | rhexu => exact .inr (.inr (.inr ⟨.hexUpper, rfl, rfl⟩))
  | mul | div | muladd | rem | remeu | remi | remeui => exact .inl ⟨rfl, _, rfl⟩

@[simp] theorem readsRcfg_renderOp (r : Radix) : readsRcfg (renderOp r) = true := by cases r <;> rfl

@[simp] theorem sqrtUnchecked_text (w : Width) (sg : Sign) (o : SqrtOutcome) :
    (sqrtUnchecked w sg o).text = none := by
  cases o with
  | ok r => rw [sqrtUnchecked]; split_ifs <;> rfl
  | err | domain => rfl

@[simp] theorem sqrtChecked_text (w : Width) (sg : Sign) (o : SqrtOutcome) : (sqrtChecked w sg o).text = none := by
  cases o with
  | ok r => rw [sqrtChecked]; split_ifs <;> rfl
  | err | domain => rfl

/-- Only a render command writes a text (10_state.md R41). -/
theorem resultOf_text {i : Instr} (hop : readsRcfg i.fields.op = false) (l : Latch) : (resultOf i l).text = none := by
  rcases resultOf_cases i l with ⟨-, o, h⟩ | ⟨-, o, h⟩ | ⟨-, o, h⟩ | ⟨r, hrender, -⟩
  · rw [h, applyFlavour_text]
  · rw [h, sqrtUnchecked_text]
  · rw [h, sqrtChecked_text]
  · rw [hrender, readsRcfg_renderOp] at hop
    cases hop

/-- A render command writes no RES (46_render.md R274). -/
theorem resultOf_res {i : Instr} (hop : readsRcfg i.fields.op = true) (l : Latch) : (resultOf i l).res = none := by
  rcases resultOf_cases i l with ⟨hother, -⟩ | ⟨hother, -⟩ | ⟨hother, -⟩ | ⟨r, -, h⟩
  case inr.inr.inr =>
    rw [h, renderCompletion]
    split_ifs <;> rfl
  all_goals
    rw [hop] at hother
    cases hother

/-- An f out of range is ILLEGAL, whatever the operation (30_encoding.md R100, R101). -/
theorem resultOf_of_fracLegal_eq_false {i : Instr} (hf : fracLegal i.fields.op i.fields.w i.fields.f = false)
    (l : Latch) : resultOf i l = raiseError .illegal := by
  simp only [resultOf]
  cases hop : i.fields.op with
  | sqrt =>
    rw [hop] at hf
    rw [sqrtOutcome_of_illegal hf]
    split_ifs <;> rfl
  | _ =>
    rw [hop] at hf
    simp only [mulOutcome, divOutcome, muladdOutcome, remOutcome, remeuOutcome, remiOutcome, remeuiOutcome,
      renderCompletion, hf, Bool.false_eq_true, if_false, applyFlavour_err]

/-! ## The form of a completion -/

/-- What every completion has in common: with an error it writes STATUS alone (60_exceptions.md R302), and a text
it writes fits TXT (46_render.md R273). -/
structure CompletionForm (c : Completion) : Prop where
  errorForm : c.err ≠ .none → c = raiseError c.err
  textFits : ∀ text, c.text = some text → text.length ≤ 387

theorem raiseError_form (e : ErrCode) : CompletionForm (raiseError e) where
  errorForm _ := rfl
  textFits _ h := by cases h

theorem writeResult_form (w : Width) (sg : Sign) (x : Int) : CompletionForm (writeResult w sg x) where
  errorForm h := absurd rfl h
  textFits _ h := by cases h

theorem writeOverflowed_form (w : Width) (sg : Sign) (x : Int) : CompletionForm (writeOverflowed w sg x) where
  errorForm h := absurd rfl h
  textFits _ h := by cases h

theorem absentOverflow_form : CompletionForm absentOverflow where
  errorForm h := absurd rfl h
  textFits _ h := by cases h

theorem applyFlavour_form (fl : Flavour) (w : Width) (sg : Sign) (o : ArithOutcome) :
    CompletionForm (applyFlavour fl w sg o) := by
  cases o with
  | err e => exact raiseError_form e
  | euOvf r x =>
    cases fl with
    | unchecked => exact raiseError_form .overflow
    | checked => exact absentOverflow_form
    | wrapping | saturating | overflowing => exact writeOverflowed_form w sg _
  | ok x =>
    by_cases hx : Representable w sg x
    · rw [applyFlavour_ok_representable hx]
      exact writeResult_form w sg x
    · rw [applyFlavour_ok_overflow hx]
      cases fl with
      | unchecked => exact raiseError_form .overflow
      | checked => exact absentOverflow_form
      | wrapping | saturating | overflowing => exact writeOverflowed_form w sg _

theorem sqrtUnchecked_form (w : Width) (sg : Sign) (o : SqrtOutcome) : CompletionForm (sqrtUnchecked w sg o) := by
  cases o with
  | err e => exact raiseError_form e
  | domain => exact raiseError_form .domain
  | ok r =>
    rw [sqrtUnchecked]
    split_ifs
    · exact writeResult_form w sg r
    · exact raiseError_form .overflow

theorem sqrtChecked_form (w : Width) (sg : Sign) (o : SqrtOutcome) : CompletionForm (sqrtChecked w sg o) := by
  cases o with
  | err e => exact raiseError_form e
  | domain => exact ⟨fun h => absurd rfl h, fun _ h => by cases h⟩
  | ok r =>
    rw [sqrtChecked]
    split_ifs
    · exact writeResult_form w sg r
    · exact absentOverflow_form

theorem renderCompletion_form (r : Radix) (w : Width) (sg : Sign) (f : Frac) (l : Latch) :
    CompletionForm (renderCompletion (renderOp r) r w sg f l) := by
  rw [renderCompletion]
  split_ifs with hlegal
  · refine ⟨fun h => absurd rfl h, fun text htext => ?_⟩
    cases htext
    have hle := (fracLegal_renderOp_iff.mp hlegal).2
    exact render_length_le (by rw [fracCount]; omega) r sg l.opa l.rcfg
  · exact raiseError_form .illegal

theorem resultOf_form (i : Instr) (l : Latch) : CompletionForm (resultOf i l) := by
  rcases resultOf_cases i l with ⟨-, o, h⟩ | ⟨-, o, h⟩ | ⟨-, o, h⟩ | ⟨r, -, h⟩ <;> rw [h]
  · exact applyFlavour_form ..
  · exact sqrtUnchecked_form ..
  · exact sqrtChecked_form ..
  · exact renderCompletion_form ..

/-! ## The due completion step (10_state.md R41) -/

/-- What the completion of a latch writes: its command's result, or ILLEGAL. -/
def completionOf (l : Latch) : Completion :=
  match decode l.cmd with
  | .ok i => resultOf i l
  | .error _ => raiseError .illegal

theorem completionOf_of_ok {l : Latch} {i : Instr} (h : decode l.cmd = .ok i) : completionOf l = resultOf i l := by
  simp only [completionOf, h]

theorem completionOf_of_error {l : Latch} {e : DecodeError} (h : decode l.cmd = .error e) :
    completionOf l = raiseError .illegal := by
  simp only [completionOf, h]

/-- A due step always completes the latch in flight: it has no other outcome. -/
theorem step_eq_complete {s : State} {l : Latch} (hl : s.inflight = some l) (hcount : s.countdown = 0) :
    step s = .next (complete s (completionOf l)) := by
  rw [step_of_due hl hcount, completionStep]
  cases h : decode l.cmd with
  | ok i => rw [completionOf_of_ok h, ← exec_of_inflight hl]
  | error e => rw [completionOf_of_error h]; exact onLatch_of_inflight hl _

theorem completionOf_form (l : Latch) : CompletionForm (completionOf l) := by
  cases h : decode l.cmd with
  | ok i => rw [completionOf_of_ok h]; exact resultOf_form i l
  | error e => rw [completionOf_of_error h]; exact raiseError_form .illegal

/-- A word is a render command exactly when its operation is one that reads RCFG. -/
theorem isRenderWord_of_ok {v : Word32} {i : Instr} (h : decode v = .ok i) :
    isRenderWord v = readsRcfg i.fields.op := by
  obtain ⟨-, op, w, fl, hop, -, -, hi, -⟩ := decode_eq_ok_iff.mp h
  rw [fields_of_instrOf hi, isRenderWord, hop]
  cases op <;> rfl

/-- 46_render.md R274: the completion of a render word writes no RES. -/
theorem completionOf_res {l : Latch} (h : isRenderWord l.cmd = true) : (completionOf l).res = none := by
  cases hd : decode l.cmd with
  | ok i => rw [completionOf_of_ok hd, resultOf_res (isRenderWord_of_ok hd ▸ h)]
  | error e => rw [completionOf_of_error hd]; rfl

/-- 10_state.md R41: the completion of any other word writes no text. -/
theorem completionOf_text {l : Latch} (h : isRenderWord l.cmd = false) : (completionOf l).text = none := by
  cases hd : decode l.cmd with
  | ok i => rw [completionOf_of_ok hd, resultOf_text (isRenderWord_of_ok hd ▸ h)]
  | error e => rw [completionOf_of_error hd]; rfl

/-- Settles O42: the due step is `complete`, which writes RES, TXT and TXTLEN only where the completion has a result
or a text. -/
theorem dueCompletionStepAlwaysCompletes : Obligations.DueCompletionStepAlwaysCompletes := by
  intro s l hl hcount
  refine ⟨_, step_eq_complete hl hcount, rfl, rfl, rfl, rfl, rfl, rfl, rfl, rfl, hcount, rfl, rfl, rfl,
    fun hrender => ?_, fun hother => ?_⟩
  · rw [complete_res, completionOf_res hrender, Option.getD_none]
  · simp only [complete_txt, complete_txtlen, completionOf_text hother, Option.map_none, Option.getD_none, and_self]

/-- Settles O43: a completion with an error code is `raiseError` of that code. -/
theorem errorCompletionWritesOnlyStatus : Obligations.ErrorCompletionWritesOnlyStatus := by
  intro s t l hl hcount hstep herr
  rw [step_eq_complete hl hcount, Host.Outcome.next.injEq] at hstep
  subst hstep
  rw [complete_err] at herr
  rw [(completionOf_form l).errorForm herr, complete_raiseError]
  rfl

/-- Settles O5: a due step whose word decodes is `exec` by definition, and `withFetchWord` makes the word's step
due. -/
theorem stepRunsTheDecodedCommand : Obligations.StepRunsTheDecodedCommand := by
  have hstep : ∀ (s : State) (l : Latch) (i : Instr),
      s.inflight = some l → s.countdown = 0 → decode l.cmd = .ok i → step s = exec i s := by
    intro s l i hl hcount hi
    simp only [step_of_due hl hcount, completionStep, hi]
  refine ⟨hstep, fun s v i hi => ?_⟩
  have hword : BitVec.ofNat 32 (v.toNat % 2 ^ 32) = v := by
    rw [Nat.mod_eq_of_lt v.isLt, BitVec.ofNat_toNat, BitVec.setWidth_eq]
  exact hstep _ _ i (withFetchWord_inflight s 32 v.toNat) (withFetchWord_countdown s 32 v.toNat)
    (by rw [latchNow_cmd, hword, hi])

/-- Settles O7: well-formedness is the FRAC check every result begins with. -/
theorem illFormedCommandRaisesIllegal : Obligations.IllFormedCommandRaisesIllegal := by
  intro i s l hwf hl
  rw [wellFormed_eq_fracLegal] at hwf
  rw [exec_of_inflight hl, resultOf_of_fracLegal_eq_false hwf]
  rfl

end Sys2Proof.Machine

/-! # The invariant

The invariant holds at reset, a completion keeps it because of the form a completion has, and every action of the host
keeps it. -/

namespace Sys2Proof.Machine

/-! ## What the invariant does not speak of -/

/-- The operand registers, RES, CMDLOST and the model's own fields are free. -/
theorem Inv.frame {s : State} (h : Inv s) (a b c r : Word128) (lost : Bool) (n : Nat) (q : List HostOp) (d : Word32)
    (k : Nat) :
    Inv { s with
      opa := a, opb := b, opc := c, res := r, cmdlost := lost, countdown := n, hostQueue := q, readData := d
      freeTick := k } :=
  ⟨h.textCanonical, h.textFits, h.textEnds, h.rcfgReserved, h.inFlight, h.notDone, h.overflowSets,
    h.otherErrorClears, h.absentIsNoError⟩

/-! ## The completion step -/

/-- A text that fits leaves TXT in canonical form, ending at TXTLEN (46_render.md R273, R274). -/
theorem ofBytes_fits {text : List Byte} (h : text.length ≤ 387) :
    (Memory.ofBytes text).wf = true ∧ (BitVec.ofNat 32 text.length).toNat ≤ 387
      ∧ ∀ k, (BitVec.ofNat 32 text.length).toNat ≤ k → (Memory.ofBytes text).read k = 0#8 := by
  have hlength : (BitVec.ofNat 32 text.length).toNat = text.length := Nat.mod_eq_of_lt (by omega)
  rw [hlength]
  refine ⟨ofBytes_wf (h.trans (by decide)), h, fun k hk => ?_⟩
  rw [read_ofBytes, List.getD_eq_default _ _ hk]

theorem inv_complete {s : State} (h : Inv s) {c : Completion} (hc : CompletionForm c) : Inv (complete s c) := by
  have htext : (complete s c).txt.wf = true ∧ (complete s c).txtlen.toNat ≤ 387
      ∧ ∀ k, (complete s c).txtlen.toNat ≤ k → (complete s c).txt.read k = 0#8 := by
    rw [complete_txt, complete_txtlen]
    cases htext : c.text with
    | none => exact ⟨h.textCanonical, h.textFits, h.textEnds⟩
    | some text => exact ofBytes_fits (hc.textFits text htext)
  obtain ⟨hcanonical, hfits, hends⟩ := htext
  exact {
    textCanonical := hcanonical
    textFits := hfits
    textEnds := hends
    rcfgReserved := h.rcfgReserved
    inFlight := fun l hl => by cases hl
    notDone := fun hdone => by cases hdone
    overflowSets := fun herr => by
      rw [complete_err] at herr
      rw [complete_ov, hc.errorForm (by rw [herr]; decide), herr]
      rfl
    otherErrorClears := fun hnone hoverflow => by
      rw [complete_err] at hnone hoverflow
      rw [complete_ov, hc.errorForm hnone]
      exact decide_eq_false hoverflow
    absentIsNoError := fun habsent => by
      rw [complete_absent] at habsent
      rw [complete_err]
      by_contra herr
      rw [hc.errorForm herr] at habsent
      cases habsent }

/-! ## The actions of the host -/

theorem inv_resetInput (s : State) : Inv (resetInput s) where
  textCanonical := reset_txt_wf
  textFits := Nat.zero_le _
  textEnds _ _ := rfl
  rcfgReserved := show 0x08000000#32 &&& rcfgMask = 0x08000000#32 by decide
  inFlight l hl := by cases hl
  notDone _ := ⟨rfl, rfl, rfl⟩
  overflowSets h := by cases h
  otherErrorClears h := absurd rfl h
  absentIsNoError h := by cases h

/-- Acceptance clears the status it latches a command with (10_state.md R40). -/
theorem inv_accept {s : State} (h : Inv s) (v : Word32) : Inv (accept v s) where
  textCanonical := h.textCanonical
  textFits := h.textFits
  textEnds := h.textEnds
  rcfgReserved := h.rcfgReserved
  inFlight l hl := by
    cases hl
    exact ⟨rfl, h.rcfgReserved, rfl⟩
  notDone _ := ⟨rfl, rfl, rfl⟩
  overflowSets h := by cases h
  otherErrorClears h := absurd rfl h
  absentIsNoError h := by cases h

theorem rcfgMask_idempotent (v : Word32) : v &&& rcfgMask &&& rcfgMask = v &&& rcfgMask := by
  rw [BitVec.and_assoc, BitVec.and_self]

theorem inv_writeReg {s : State} (h : Inv s) (r : RegWord) (v : Word32) : Inv (writeReg s r v) := by
  rcases writeReg_cases s r v with
    ⟨k, hw⟩ | ⟨k, hw⟩ | ⟨k, hw⟩ | ⟨-, hw⟩ | ⟨-, hw⟩ | hw | hw | hw <;> rw [hw]
  case inr.inr.inr.inl => exact inv_accept h v
  case inr.inr.inr.inr.inr.inl => exact { h with rcfgReserved := rcfgMask_idempotent v }
  case inr.inr.inr.inr.inr.inr.inr => exact h
  all_goals exact h.frame ..

theorem inv_readReg {s : State} (h : Inv s) (r : RegWord) : Inv (readReg s r) := by
  obtain ⟨d, n, hr⟩ := readReg_eq s r
  rw [hr]
  exact h.frame ..

theorem inv_hostWait {s : State} (h : Inv s) (rest : List HostOp) : Inv (hostWait rest s) := by
  have hread := inv_readReg h .status
  unfold hostWait
  dsimp only
  split <;> exact hread.frame ..

/-- Either the host's next action answers a state, and keeps the invariant, or it is an access the interface does not
have. -/
theorem hostStep_cases (s : State) :
    (∃ t, hostStep s = .next t ∧ (Inv s → Inv t))
      ∨ ∃ r bytes off rest, hostStep s = .refused r ∧ ¬ wellFormedAccess bytes off
          ∧ (s.hostQueue = .rd bytes off :: rest ∨ ∃ v, s.hostQueue = .wr bytes off v :: rest) := by
  unfold hostStep
  cases hq : s.hostQueue with
  | nil => exact .inl ⟨s, rfl, id⟩
  | cons op rest =>
    cases op with
    | rd bytes off =>
      cases hacc : accessRefusal bytes off with
      | none => exact .inl ⟨_, by simp only [hostRead, hacc]; rfl, fun h => inv_readReg (h.frame ..) _⟩
      | some r =>
        have hbad : ¬ wellFormedAccess bytes off := by simp [← accessRefusal_eq_none, hacc]
        exact .inr ⟨r, bytes, off, rest, by simp only [hostRead, hacc], hbad, .inl rfl⟩
    | wr bytes off v =>
      cases hacc : accessRefusal bytes off with
      | none => exact .inl ⟨_, by simp only [hostWrite, hacc]; rfl, fun h => inv_writeReg (h.frame ..) _ v⟩
      | some r =>
        have hbad : ¬ wellFormedAccess bytes off := by simp [← accessRefusal_eq_none, hacc]
        exact .inr ⟨r, bytes, off, rest, by simp only [hostWrite, hacc], hbad, .inr ⟨v, rfl⟩⟩
    | wait => exact .inl ⟨_, rfl, fun h => inv_hostWait h rest⟩
    | reset => exact .inl ⟨_, rfl, fun _ => inv_resetInput _⟩

/-! # The step -/

/-- Settles O44: the power-on state is a state the reset input leaves. -/
theorem resetStateHasTheInvariant : Obligations.ResetStateHasTheInvariant := by
  have h : Inv (resetInput State.reset) := inv_resetInput State.reset
  rwa [resetInput_reset] at h

/-- Settles O45: a due step is `complete` of a completion in form, any other is the host's action. -/
theorem everyStepKeepsTheInvariant : Obligations.EveryStepKeepsTheInvariant := by
  intro s t h hstep
  cases hdue : completionDue s with
  | some l =>
    obtain ⟨hl, hcount⟩ := completionDue_eq_some.mp hdue
    rw [step_eq_complete hl hcount] at hstep
    cases hstep
    exact inv_complete h (completionOf_form l)
  | none =>
    rw [step_eq_hostStep hdue] at hstep
    rcases hostStep_cases (passStep s) with ⟨u, hu, hinv⟩ | ⟨r, -, -, -, hr, -⟩
    · rw [hu] at hstep
      cases hstep
      exact hinv (h.frame ..)
    · rw [hr] at hstep
      cases hstep

/-- Settles O46: a due step completes, and the host's action stops only on an access the interface does not have. -/
theorem stepsStopOnlyAtAccessesOutsideTheInterface : Obligations.StepsStopOnlyAtAccessesOutsideTheInterface := by
  intro s
  cases hdue : completionDue s with
  | some l =>
    obtain ⟨hl, hcount⟩ := completionDue_eq_some.mp hdue
    rw [step_eq_complete hl hcount]
    exact ⟨nofun, nofun⟩
  | none =>
    rw [step_eq_hostStep hdue]
    rcases hostStep_cases (passStep s) with ⟨u, hu, -⟩ | ⟨r, bytes, off, rest, hr, hbad, hq⟩
    · rw [hu]
      exact ⟨nofun, nofun⟩
    · rw [hr]
      exact ⟨nofun, fun _ _ => ⟨bytes, off, rest, hbad, hq⟩⟩

/-! # Runs to the completion

With a command in flight, each step the host takes uses up one step of the latency, and the step that finds none left
is the completion (70_reset_and_hazards.md R345). -/

/-- A run of one step more, on any machine behind the host's interface. -/
theorem core_run_succ {M : Host.Core} {s t : M.State} (h : M.step s = .next t) (k : Nat) :
    M.run (k + 1) s = M.run k t := by
  rw [Host.Core.run, h]

theorem run_succ {s t : State} (h : step s = .next t) (k : Nat) :
    Sys2Proof.core.run (k + 1) s = Sys2Proof.core.run k t :=
  core_run_succ (M := Sys2Proof.core) h k

@[simp] theorem run_zero (s : State) : Sys2Proof.core.run 0 s = .next s := rfl

/-! ## The host's action while a command is in flight -/

/-- What the host's action keeps while the command `l` is in flight: the latch, CMD and the countdown stay, and no
action joins the queue. -/
structure KeepsCommand (l : Latch) (s t : State) : Prop where
  inflight : t.inflight = some l
  cmd : t.cmd = s.cmd
  countdown : t.countdown = s.countdown
  queue : t.hostQueue ⊆ s.hostQueue

theorem keepsCommand_readReg {s : State} {l : Latch} (hl : s.inflight = some l) (r : RegWord) :
    KeepsCommand l s (readReg s r) := by
  obtain ⟨d, n, hr⟩ := readReg_eq s r
  rw [hr]
  exact ⟨hl, rfl, rfl, List.Subset.refl _⟩

theorem keepsCommand_writeReg {s : State} {l : Latch} (hl : s.inflight = some l) (r : RegWord) (v : Word32) :
    KeepsCommand l s (writeReg s r v) := by
  rcases writeReg_cases s r v with
    ⟨k, hw⟩ | ⟨k, hw⟩ | ⟨k, hw⟩ | ⟨hnone, -⟩ | ⟨-, hw⟩ | hw | hw | hw
  case inr.inr.inr.inl => simp [hl] at hnone
  all_goals
    rw [hw]
    exact ⟨hl, rfl, rfl, List.Subset.refl _⟩

/-- A poll that finds the command in flight is repeated (30_encoding.md R107). -/
theorem hostWait_of_inflight {s : State} {l : Latch} (hl : s.inflight = some l) (rest : List HostOp) :
    hostWait rest s = { s with readData := statusWord s, hostQueue := .wait :: rest } := by
  have hbusy : (statusWord s).getLsbD 0 = true := by rw [statusWord_busy, hl, Option.isSome_some]
  simp only [hostWait, readReg_of_specified (r := .status) rfl, regWord, hbusy, if_true]

/-- A poll that finds no command in flight is the last (30_encoding.md R107). -/
theorem hostWait_of_idle {s : State} (hidle : s.inflight = none) (rest : List HostOp) :
    hostWait rest s = { s with readData := statusWord s, hostQueue := rest } := by
  have hbusy : (statusWord s).getLsbD 0 = false := by rw [statusWord_busy, hidle, Option.isSome_none]
  simp only [hostWait, readReg_of_specified (r := .status) rfl, regWord, hbusy, Bool.false_eq_true, if_false]

/-- A plain action succeeds and leaves the command in flight as it was. -/
theorem hostStep_keepsCommand {s : State} {l : Latch} (hl : s.inflight = some l)
    (hplain : ∀ op ∈ s.hostQueue, plainAction op) : ∃ t, hostStep s = .next t ∧ KeepsCommand l s t := by
  unfold hostStep
  cases hq : s.hostQueue with
  | nil => exact ⟨s, rfl, hl, rfl, rfl, List.Subset.refl _⟩
  | cons op rest =>
    have hop : plainAction op := hplain op (hq ▸ List.mem_cons_self)
    have htail : ∀ {t : State}, KeepsCommand l { s with hostQueue := rest } t → KeepsCommand l s t := fun h =>
      ⟨h.inflight, h.cmd, h.countdown, List.Subset.trans h.queue (hq ▸ List.subset_cons_self op rest)⟩
    cases op with
    | rd bytes off =>
      exact ⟨_, hostRead_of_wellFormed hop _, htail (keepsCommand_readReg (s := { s with hostQueue := rest }) hl _)⟩
    | wr bytes off v =>
      exact ⟨_, hostWrite_of_wellFormed hop v _,
        htail (keepsCommand_writeReg (s := { s with hostQueue := rest }) hl _ v)⟩
    | wait =>
      refine ⟨_, rfl, ?_⟩
      rw [hostWait_of_inflight hl]
      exact ⟨hl, rfl, rfl, hq ▸ List.Subset.refl _⟩
    | reset => exact hop.elim

/-! ## The runs -/

/-- Settles O47, by induction on the countdown: at 0 the step completes, and before it the host's action leaves the
command in flight. -/
theorem commandCompletesWhenItsLatencyHasPassed : Obligations.CommandCompletesWhenItsLatencyHasPassed := by
  intro s l hl hplain
  induction hn : s.countdown generalizing s with
  | zero =>
    rw [run_succ (step_eq_complete hl hn), run_zero]
    exact ⟨_, rfl, complete_inflight .., complete_done .., complete_cmd ..⟩
  | succ n ih =>
    have hdue : completionDue s = none := completionDue_eq_none.mpr (.inr (by omega))
    obtain ⟨t, hstep, hkeeps⟩ := hostStep_keepsCommand (s := passStep s) hl hplain
    rw [← step_eq_hostStep hdue] at hstep
    have hcount : t.countdown = n := by rw [hkeeps.countdown, passStep_countdown, hn, Nat.add_sub_cancel]
    obtain ⟨u, hrun, hidle, hdone, hcmd⟩ := ih t hkeeps.inflight (fun op hop => hplain op (hkeeps.queue hop)) hcount
    rw [run_succ hstep]
    exact ⟨u, hrun, hidle, hdone, hcmd.trans hkeeps.cmd⟩

/-- The host's turn on WAIT. -/
theorem step_wait {s : State} {rest : List HostOp} (hdue : completionDue s = none)
    (hq : s.hostQueue = .wait :: rest) : step s = .next (hostWait rest (passStep s)) := by
  rw [step_eq_hostStep hdue]
  simp only [hostStep, passStep_hostQueue, hq]

/-- With nothing in flight WAIT is one step: it reads STATUS and is done. -/
theorem step_wait_of_idle {s : State} {rest : List HostOp} (hidle : s.inflight = none)
    (hq : s.hostQueue = .wait :: rest) :
    step s = .next { passStep s with readData := statusWord (passStep s), hostQueue := rest } := by
  rw [step_wait (completionDue_eq_none.mpr (.inl hidle)) hq, hostWait_of_idle (s := passStep s) hidle]

/-- Settles O48, by induction on the countdown: WAIT repeats while the command is in flight, the completion goes before
it, and the poll after the completion is the last. -/
theorem waitExitsAfterTheCompletion : Obligations.WaitExitsAfterTheCompletion := by
  intro s l rest hl hq
  induction hn : s.countdown generalizing s with
  | zero =>
    rw [run_succ (step_eq_complete hl hn), run_succ (step_wait_of_idle (complete_inflight ..) hq), run_zero]
    exact ⟨_, rfl, rfl, rfl, statusWord_busy _, statusWord_done _⟩
  | succ n ih =>
    have hdue : completionDue s = none := completionDue_eq_none.mpr (.inr (by omega))
    have hstep := step_wait hdue hq
    rw [hostWait_of_inflight (s := passStep s) hl] at hstep
    rw [run_succ hstep]
    exact ih _ hl rfl (by simp [hn])

end Sys2Proof.Machine

/-! # Reads of the register window

What a read answers while a command is in flight (10_state.md R40, R43), and that no read changes a register
(20_memory.md R71). -/

namespace Sys2Proof.Machine

@[simp] theorem regAt_txtlen : regAt 0x03C = .txtlen := rfl

theorem renderInFlight_of_inflight {s : State} {l : Latch} (hl : s.inflight = some l) :
    renderInFlight s = isRenderWord l.cmd := by
  simp only [renderInFlight, hl]

/-- Acceptance cleared DONE, OV, ABSENT and ERR, so STATUS shows BUSY and CMDLOST alone (10_state.md R40). -/
theorem statusWord_of_inflight {s : State} {l : Latch} (h : Inv s) (hl : s.inflight = some l) :
    statusWord s = if s.cmdlost then 0x00000101#32 else 0x00000001#32 := by
  obtain ⟨-, -, hdone⟩ := h.inFlight l hl
  obtain ⟨hov, habsent, herr⟩ := h.notDone hdone
  simp only [statusWord, busy, hl, hdone, hov, habsent, herr, Option.isSome_some]
  cases s.cmdlost <;> rfl

/-- A TXTLEN of at most ten bits reads as it stands (10_state.md R34). -/
theorem and_txtlenMask {v : Word32} (h : v.toNat < 2 ^ 10) : v &&& txtlenMask = v := by
  apply BitVec.eq_of_toNat_eq
  rw [BitVec.toNat_and]
  exact Nat.and_two_pow_sub_one_of_lt_two_pow h

theorem getLsbD_and_txtlenMask (v : Word32) {b : Nat} (hb : b < 32) :
    (v &&& txtlenMask).getLsbD b = (v.getLsbD b && decide (b < 10)) := by
  have hm : ∀ i < 32, txtlenMask.getLsbD i = decide (i < 10) := by decide
  rw [BitVec.getLsbD_and, hm b hb]

/-- An aligned offset of TXT is that of one of its 128 words (20_memory.md R64). -/
theorem exists_txt_word {off : Nat} (halign : off % 4 = 0) (hlo : 0x100 ≤ off) (hhi : off < 0x300) :
    ∃ j < 128, off = 0x100 + 4 * j :=
  ⟨(off - 0x100) / 4, by omega, by omega⟩

/-- TXT and TXTLEN, read while a render command is in flight, answer the next free value (10_state.md R43). -/
theorem step_rd_of_unspecified {s : State} {off : Nat} {r : RegWord} {rest : List HostOp}
    (hdue : completionDue s = none) (hacc : wellFormedAccess 4 off) (hr : regAt off = r)
    (hspec : readsUnspecified s r = true) (hq : s.hostQueue = .rd 4 off :: rest) :
    step s = .next { s with
      readData := Config.unspecifiedRead s.freeTick, freeTick := s.freeTick + 1
      hostQueue := rest, countdown := s.countdown - 1 } := by
  have hspec' : readsUnspecified { s with hostQueue := rest, countdown := s.countdown - 1 } r = true := by
    rw [← hspec]
    rfl
  rw [step_rd hdue hacc hq, hr, readReg, if_pos hspec']

/-- Settles O55: STATUS is specified at every read; TXT and TXTLEN are specified exactly while no render command is in
flight. -/
theorem readsWhileACommandIsInFlight : Obligations.ReadsWhileACommandIsInFlight := by
  intro s l off rest h hl hcount halign hq
  have hdue : completionDue s = none := completionDue_eq_none.mpr (.inr hcount)
  have hrender := renderInFlight_of_inflight hl
  refine ⟨?_, ?_, ?_, ?_⟩
  · rintro rfl
    rw [← statusWord_of_inflight h hl]
    exact step_rd_of_specified hdue (by decide) regAt_status rfl hq
  · rintro rfl hother
    have hmask := and_txtlenMask (h.textFits.trans_lt (by decide))
    rw [step_rd_of_specified hdue (by decide) regAt_txtlen (hrender.trans hother) hq, regWord, hmask]
  · intro hlo hhi hother
    obtain ⟨j, hj, rfl⟩ := exists_txt_word halign hlo hhi
    rw [Nat.add_sub_cancel_left]
    exact textWordsArePackedLittleEndian s j rest hj hdue (hrender.trans hother) hq
  · rintro (rfl | ⟨hlo, hhi⟩) hop
    · exact step_rd_of_unspecified hdue (by decide) regAt_txtlen (hrender.trans hop) hq
    · obtain ⟨j, hj, rfl⟩ := exists_txt_word halign hlo hhi
      exact step_rd_of_unspecified hdue ⟨rfl, by omega, by omega⟩ (regAt_txt hj) (hrender.trans hop) hq

/-- Settles O56: a read changes the host's word and the free values' counter alone. -/
theorem readsChangeNoRegister : Obligations.ReadsChangeNoRegister := by
  intro s off rest hdue halign hlt hq
  obtain ⟨d, n, hread⟩ :=
    readReg_eq { s with hostQueue := rest, countdown := s.countdown - 1 } (regAt off)
  exact ⟨d, n, by rw [step_rd hdue ⟨rfl, halign, hlt⟩ hq, hread]⟩

/-- Settles O57: both words are specified, TXTLEN because no render command is in flight. -/
theorem cmdAndTxtlenReadTheirValues : Obligations.CmdAndTxtlenReadTheirValues := by
  intro s rest hdue
  refine ⟨fun hq => ?_, fun hq hrender => ?_⟩
  · rw [step_rd_of_specified hdue (by decide) regAt_cmd rfl hq, regWord]
  · exact ⟨_, step_rd_of_specified hdue (by decide) regAt_txtlen hrender hq,
      fun b hb => getLsbD_and_txtlenMask s.txtlen hb⟩

end Sys2Proof.Machine

/-! # MULADD and the remainders

MULADD adds to the floored product (43_muladd.md R190, R191); the remainders are the truncating and the Euclidean one,
and only REMEUI's adjustment can fail (42_divide_remainder.md R163 to R170). -/

namespace Sys2Proof.Machine

/-! ## Five commands that fail alike, and two flavours that agree -/

/-- R137 for a whole operation: five commands whose outcome is the same error report it, with no result. -/
theorem exec_of_err {w : Width} {sg : Sign} {s : State} {l : Latch} {e : ErrCode} (hl : s.inflight = some l)
    (he : e ≠ .overflow) {i : Flavour → Instr} (hi : ∀ fl, resultOf (i fl) l = applyFlavour fl w sg (.err e)) :
    ∀ j ∈ [i .unchecked, i .checked, i .wrapping, i .saturating, i .overflowing],
      exec j s = .next (afterError s e false) := by
  have hexec : ∀ fl, exec (i fl) s = .next (afterError s e false) := fun fl => by
    rw [exec_of_inflight hl, hi, complete_applyFlavour_err he]
  simp only [List.forall_mem_cons, hexec, List.not_mem_nil, false_imp_iff, implies_true, and_true]

/-- Five commands whose outcome is the same representable result write it, OV = 0 (R136). -/
theorem allWrite_of_ok {w : Width} {sg : Sign} {s : State} {l : Latch} {x : Int} (hl : s.inflight = some l)
    (hx : Representable w sg x) {i : Flavour → Instr}
    (hi : ∀ fl, resultOf (i fl) l = applyFlavour fl w sg (.ok x)) :
    AllWrite w sg s x [i .unchecked, i .checked, i .wrapping, i .saturating, i .overflowing] :=
  (flavourRows_of_ok hl hi).1 hx

/-- The two columns are the same in R136 and in R138. -/
theorem applyFlavour_wrapping_eq_overflowing (w : Width) (sg : Sign) (o : ArithOutcome) :
    applyFlavour .wrapping w sg o = applyFlavour .overflowing w sg o := by
  cases o <;> rfl

theorem exec_congr {i j : Instr} (h : ∀ l, resultOf i l = resultOf j l) (s : State) : exec i s = exec j s := by
  rw [exec_eq_onLatch, exec_eq_onLatch, funext h]

/-- An operation's WRAPPING and OVERFLOWING commands with the same outcome are the same state change. -/
theorem exec_wrapping_eq_overflowing {w : Width} {sg : Sign} {o : Latch → ArithOutcome} {i : Flavour → Instr}
    (hi : ∀ fl l, resultOf (i fl) l = applyFlavour fl w sg (o l)) (s : State) :
    exec (i .wrapping) s = exec (i .overflowing) s :=
  exec_congr (fun l => by rw [hi, hi, applyFlavour_wrapping_eq_overflowing]) s

/-! ## The other two operations by flavour -/

/-- The MULADD of a flavour. -/
def muladdOf (w : Width) (sg : Sign) (f : Frac) : Flavour → Instr
  | .unchecked => .muladd w sg f
  | .checked => .muladdC w sg f
  | .wrapping => .muladdW w sg f
  | .saturating => .muladdS w sg f
  | .overflowing => .muladdO w sg f

theorem resultOf_muladdOf (w : Width) (sg : Sign) (f : Frac) (fl : Flavour) (l : Latch) :
    resultOf (muladdOf w sg f fl) l = applyFlavour fl w sg (muladdOutcome w sg f l) := by
  cases fl <;> rfl

/-- The REMEUI of a flavour. -/
def remeuiOf (w : Width) (sg : Sign) (f : Frac) : Flavour → Instr
  | .unchecked => .remeui w sg f
  | .checked => .remeuiC w sg f
  | .wrapping => .remeuiW w sg f
  | .saturating => .remeuiS w sg f
  | .overflowing => .remeuiO w sg f

theorem resultOf_remeuiOf (w : Width) (sg : Sign) (f : Frac) (fl : Flavour) (l : Latch) :
    resultOf (remeuiOf w sg f fl) l = applyFlavour fl w sg (remeuiOutcome w sg f l) := by
  cases fl <;> rfl

/-- Settles O24: every operation applies its flavour to one outcome. -/
theorem wrappingAndOverflowingAgree : Obligations.WrappingAndOverflowingAgree := by
  intro w sg f s
  exact ⟨exec_wrapping_eq_overflowing (i := mulOf w sg f) (resultOf_mulOf w sg f) s,
    exec_wrapping_eq_overflowing (i := divOf w sg f) (resultOf_divOf w sg f) s,
    exec_wrapping_eq_overflowing (i := muladdOf w sg f) (resultOf_muladdOf w sg f) s,
    exec_wrapping_eq_overflowing (i := remOf w sg f) (resultOf_remOf w sg f) s,
    exec_wrapping_eq_overflowing (i := remeuOf w sg f) (resultOf_remeuOf w sg f) s,
    exec_wrapping_eq_overflowing (i := remiOf w sg f) (resultOf_remiOf w sg f) s,
    exec_wrapping_eq_overflowing (i := remeuiOf w sg f) (resultOf_remeuiOf w sg f) s⟩

/-- Settles O11: the divisor is checked before the operation is computed, so five outcomes are DIVZERO. -/
theorem zeroDivisorIsReportedInEveryFlavour : Obligations.ZeroDivisorIsReportedInEveryFlavour := by
  intro w sg f s l hl hnonneg hle hzero
  have hlegal := fracLegal_of_nonneg_of_le hnonneg hle
  have hne : ErrCode.divzero ≠ .overflow := by decide
  have hdiv := exec_of_err hl hne (i := divOf w sg f) (w := w) (sg := sg) fun fl => by
    rw [resultOf_divOf, divOutcome, if_pos (hlegal .div), if_pos hzero]
  have hrem := exec_of_err hl hne (i := remOf w sg f) (w := w) (sg := sg) fun fl => by
    rw [resultOf_remOf, remOutcome, if_pos (hlegal .rem), if_pos hzero]
  have hremeu := exec_of_err hl hne (i := remeuOf w sg f) (w := w) (sg := sg) fun fl => by
    rw [resultOf_remeuOf, remeuOutcome, if_pos (hlegal .remeu), if_pos hzero]
  have hremi := exec_of_err hl hne (i := remiOf w sg f) (w := w) (sg := sg) fun fl => by
    rw [resultOf_remiOf, remiOutcome, if_pos (hlegal .remi), if_pos hzero]
  have hremeui := exec_of_err hl hne (i := remeuiOf w sg f) (w := w) (sg := sg) fun fl => by
    rw [resultOf_remeuiOf, remeuiOutcome, if_pos (hlegal .remeui), if_pos hzero]
  exact List.forall_mem_append.mpr ⟨hdiv, List.forall_mem_append.mpr ⟨hrem, List.forall_mem_append.mpr
    ⟨hremeu, List.forall_mem_append.mpr ⟨hremi, hremeui⟩⟩⟩⟩

/-! ## MULADD -/

/-- R190: the inequalities for f ≥ 0, and the equation for f < 0, fix the scaled product. -/
theorem scaleProduct_eq {p f q : Int} (hfloor : 0 ≤ f → q * 2 ^ f.toNat ≤ p ∧ p < (q + 1) * 2 ^ f.toNat)
    (hexact : f < 0 → q = p * 2 ^ (-f).toNat) : scaleProduct p f = q := by
  rw [scaleProduct]
  split_ifs with hf
  · exact (floorShift_eq_iff _ _ _).mpr (by push_cast; exact hfloor hf)
  · rw [exactShift, Nat.cast_pow, Nat.cast_ofNat, hexact (not_le.mp hf)]

/-- Settles O12: every MULADD of the family has q + C as its outcome, so R136 says what each writes. -/
theorem muladdAddsToTheFlooredProduct : Obligations.MuladdAddsToTheFlooredProduct := by
  intro w sg f s l q hl hlower hupper hfloor hexact
  have hlegal : fracLegal .muladd w f = true := by
    simp only [fracLegal, hlower, hupper, decide_true, Bool.and_self]
  exact flavourRows_of_ok hl (i := muladdOf w sg f) fun fl => by
    rw [resultOf_muladdOf, muladdOutcome, if_pos hlegal, scaleProduct_eq hfloor hexact]

/-! ## The truncating remainder (42_divide_remainder.md R163) -/

/-- The truncating remainder lies between 0 and the dividend. -/
theorem tmod_mem (a b : Int) : 0 ≤ a.tmod b ∧ a.tmod b ≤ a ∨ a ≤ a.tmod b ∧ a.tmod b ≤ 0 := by
  have hle : (a.tmod b).natAbs ≤ a.natAbs := by
    rw [Int.natAbs_tmod]
    exact Nat.mod_le _ _
  rcases le_total 0 a with ha | ha
  · have := Int.tmod_nonneg b ha
    omega
  · have := Int.tmod_nonneg b (neg_nonneg.mpr ha)
    rw [Int.neg_tmod] at this
    omega

/-- No truncating remainder of an operand overflows (R170). -/
theorem representable_tmod {w : Width} {sg : Sign} {a : Int} (ha : Representable w sg a) (b : Int) :
    Representable w sg (a.tmod b) := by
  have hmin := minVal_nonpos w sg
  have hmax := maxVal_nonneg w sg
  obtain ⟨hlower, hupper⟩ := ha
  rcases tmod_mem a b with h | h <;> exact ⟨by omega, by omega⟩

theorem tmod_of_isTruncRem {a b r : Int} (h : IsTruncRem a b r) : a.tmod b = r := by
  obtain ⟨⟨q, hq⟩, hlt, hsign⟩ := h
  exact (tdiv_tmod_of_remainder hq hlt hsign).2

/-- Settles O13: the remainder R163 describes is `Int.tmod`, which is representable. -/
theorem remWritesTheTruncatingRemainder : Obligations.RemWritesTheTruncatingRemainder := by
  intro w sg f s l r hl hnonneg hle hb hr
  have hlegal := fracLegal_of_nonneg_of_le hnonneg hle .rem
  have hx : Representable w sg r := tmod_of_isTruncRem hr ▸ representable_tmod (val_representable w sg l.opa) _
  exact allWrite_of_ok hl hx (i := remOf w sg f) fun fl => by
    rw [resultOf_remOf, remOutcome_of_ne_zero hlegal hb, tmod_of_isTruncRem hr]

/-! ## The Euclidean remainder (42_divide_remainder.md R164) -/

theorem emod_of_isEuclidRem {a b r : Int} (h : IsEuclidRem a b r) : a % b = r := by
  obtain ⟨⟨q, rfl⟩, hnonneg, hlt⟩ := h
  rw [Int.mul_add_emod_self_right, ← Int.emod_abs, Int.emod_eq_of_lt hnonneg hlt]

/-- R164: the truncating remainder is the Euclidean one, or |b| below it and negative. -/
theorem tmod_cases (a : Int) {b : Int} (hb : b ≠ 0) :
    0 ≤ a.tmod b ∧ a.tmod b = a % b ∨ a.tmod b < 0 ∧ a.tmod b + |b| = a % b := by
  have hnonneg := Int.emod_nonneg a hb
  have hlt := Int.emod_lt_abs a hb
  rw [Int.abs_eq_natAbs] at hlt ⊢
  rw [Int.tmod_eq_emod]
  split_ifs
  · exact .inl ⟨by omega, by omega⟩
  · exact .inr ⟨by omega, by omega⟩

/-- A number not negative and below the magnitude of an operand fits, even below |MIN| (R164). -/
theorem representable_of_lt_abs {w : Width} {sg : Sign} {b r : Int} (hb : Representable w sg b) (hr : 0 ≤ r)
    (hlt : r < |b|) : Representable w sg r := by
  have hmin := minVal_nonpos w sg
  obtain ⟨hlower, hupper⟩ := hb
  have hneg : -maxVal w sg - 1 ≤ minVal w sg := by
    cases sg with
    | unsigned => have := maxVal_nonneg w .unsigned; rw [minVal]; omega
    | signed => rw [maxVal_signed_eq]; omega
  have habs : |b| ≤ maxVal w sg + 1 := abs_le.mpr ⟨by omega, by omega⟩
  exact ⟨by omega, by omega⟩

/-- R164, R170: with a representable divisor the adjustment never fails, and gives the Euclidean remainder. -/
theorem euclideanOutcome_tmod {w : Width} {sg : Sign} {b : Int} (hb : Representable w sg b) (hne : b ≠ 0) (a : Int) :
    euclideanOutcome w sg (a.tmod b) |b| = .ok (a % b) ∧ Representable w sg (a % b) := by
  have hx := representable_of_lt_abs hb (Int.emod_nonneg a hne) (Int.emod_lt_abs a hne)
  refine ⟨?_, hx⟩
  rcases tmod_cases a hne with ⟨hnonneg, h⟩ | ⟨hneg, h⟩
  · rw [euclideanOutcome_of_nonneg hnonneg, h]
  · rw [euclideanOutcome, if_neg hneg.not_ge, h, if_pos hx]

/-- Settles O14: the adjusted truncating remainder is `Int.emod`, the remainder R164 describes. -/
theorem remeuWritesTheEuclideanRemainder : Obligations.RemeuWritesTheEuclideanRemainder := by
  intro w sg f s l r hl hnonneg hle hb hr
  have hlegal := fracLegal_of_nonneg_of_le hnonneg hle .remeu
  obtain ⟨hok, hx⟩ := euclideanOutcome_tmod (val_representable w sg l.opb) hb (val w sg l.opa)
  rw [emod_of_isEuclidRem hr] at hok hx
  exact allWrite_of_ok hl hx (i := remeuOf w sg f) fun fl => by
    rw [resultOf_remeuOf, remeuOutcome_of_ne_zero hlegal hb, hok]

/-! ## The remainders by an integer (42_divide_remainder.md R166, R168) -/

theorem exactShift_eq (x : Int) (k : Nat) : exactShift x k = x * 2 ^ k := by
  rw [exactShift, Nat.cast_pow, Nat.cast_ofNat]

/-- R166 where the realigned divisor is an operand value. -/
theorem remiValue_of_representable {w : Width} {sg : Sign} {k : Nat} {d : Int} (hk : k ≠ w.bits)
    (hd : Representable w sg (d * 2 ^ k)) (a : Int) : remiValue w sg k a d = a.tmod (d * 2 ^ k) := by
  rw [remiValue, if_neg hk, exactShift_eq, if_pos hd, remValue_eq]

/-- R166 at the boundary: the dividend is its own remainder. -/
theorem remiValue_of_boundary {w : Width} {sg : Sign} {k : Nat} {d : Int}
    (h : k = w.bits ∨ ¬ Representable w sg (d * 2 ^ k)) (a : Int) : remiValue w sg k a d = a := by
  rcases h with hk | hd
  · rw [remiValue, if_pos hk]
  · exact remiValue_of_not_representable hd a

theorem representable_remiValue {w : Width} {sg : Sign} {a : Int} (ha : Representable w sg a) (k : Nat) (d : Int) :
    Representable w sg (remiValue w sg k a d) := by
  by_cases h : k = w.bits ∨ ¬ Representable w sg (d * 2 ^ k)
  · rwa [remiValue_of_boundary h]
  · push Not at h
    rw [remiValue_of_representable h.1 h.2]
    exact representable_tmod ha _

/-- Settles O15: the two clauses are the two cases of R166. -/
theorem remiWritesTheRemainderByAnInteger : Obligations.RemiWritesTheRemainderByAnInteger := by
  intro w sg f s l hl hnonneg hle hb
  have hlegal := fracLegal_of_nonneg_of_le hnonneg hle .remi
  have ha := val_representable w sg l.opa
  refine ⟨fun hlt hd r hr => ?_, fun hboundary => ?_⟩
  · have hx : Representable w sg r := tmod_of_isTruncRem hr ▸ representable_tmod ha _
    exact allWrite_of_ok hl hx (i := remiOf w sg f) fun fl => by
      rw [resultOf_remiOf, remiOutcome_of_ne_zero hlegal hb, remiValue_of_representable (by omega) hd,
        tmod_of_isTruncRem hr]
  · exact allWrite_of_ok hl ha (i := remiOf w sg f) fun fl => by
      rw [resultOf_remiOf, remiOutcome_of_ne_zero hlegal hb,
        remiValue_of_boundary (hboundary.imp_left fun h => by omega)]

theorem remeuiOutcome_of_ne_zero {w : Width} {sg : Sign} {f : Frac} {l : Latch}
    (hf : fracLegal .remeui w f = true) (hb : val w sg l.opb ≠ 0) :
    remeuiOutcome w sg f l
      = euclideanOutcome w sg (remiValue w sg f.toInt.toNat (val w sg l.opa) (val w sg l.opb))
          (|val w sg l.opb| * 2 ^ f.toInt.toNat) := by
  rw [remeuiOutcome, if_pos hf, if_neg hb, fracCount, exactShift_eq]

/-- R168: a negative remainder whose adjustment fits. -/
theorem euclideanOutcome_of_representable {w : Width} {sg : Sign} {r d : Int} (hr : r < 0)
    (hx : Representable w sg (r + d)) : euclideanOutcome w sg r d = .ok (r + d) := by
  rw [euclideanOutcome, if_neg hr.not_ge, if_pos hx]

/-- R168: a negative remainder whose adjustment does not fit. -/
theorem euclideanOutcome_of_not_representable {w : Width} {sg : Sign} {r d : Int} (hr : r < 0)
    (hx : ¬ Representable w sg (r + d)) : euclideanOutcome w sg r d = .euOvf r (r + d) := by
  rw [euclideanOutcome, if_neg hr.not_ge, if_neg hx]

/-- Settles O16: with a representable divisor REMEUI is the Euclidean remainder; at the boundary it adjusts the
dividend, and R138 says what an adjustment that does not fit writes. -/
theorem remeuiWritesTheEuclideanRemainderByAnInteger : Obligations.RemeuiWritesTheEuclideanRemainderByAnInteger := by
  intro w sg f s l hl hnonneg hle hb
  have houtcome := remeuiOutcome_of_ne_zero (fracLegal_of_nonneg_of_le hnonneg hle .remeui) hb
  refine ⟨fun hlt hd r hr => ?_, fun hboundary => ?_⟩
  · have hne : val w sg l.opb * 2 ^ f.toInt.toNat ≠ 0 := mul_ne_zero hb (by positivity)
    obtain ⟨hok, hx⟩ := euclideanOutcome_tmod hd hne (val w sg l.opa)
    rw [emod_of_isEuclidRem hr] at hok hx
    rw [abs_mul, abs_of_nonneg (by positivity : (0 : Int) ≤ 2 ^ f.toInt.toNat)] at hok
    exact allWrite_of_ok hl hx (i := remeuiOf w sg f) fun fl => by
      rw [resultOf_remeuiOf, houtcome, remiValue_of_representable (by omega) hd, hok]
  · rw [remiValue_of_boundary (hboundary.imp_left fun h => by omega)] at houtcome
    refine ⟨fun ha => ?_, fun ha hx => ?_, fun ha hx => ?_⟩
    · exact allWrite_of_ok hl (val_representable w sg l.opa) (i := remeuiOf w sg f) fun fl => by
        rw [resultOf_remeuiOf, houtcome, euclideanOutcome_of_nonneg ha]
    · exact allWrite_of_ok hl hx (i := remeuiOf w sg f) fun fl => by
        rw [resultOf_remeuiOf, houtcome, euclideanOutcome_of_representable ha hx]
    · rw [euclideanOutcome_of_not_representable ha hx] at houtcome
      have hexec : ∀ fl, exec (remeuiOf w sg f fl) s
          = .next (afterOverflow w sg (val w sg l.opa) (maxVal w sg) s fl) := fun fl => by
        rw [exec_of_inflight hl, resultOf_remeuiOf, houtcome, complete_euOvf]
      exact ⟨hexec .unchecked, hexec .checked, hexec .wrapping, hexec .saturating, hexec .overflowing⟩

/-- Only a negative remainder is adjusted, and adding a magnitude to an operand value can pass MAX alone (R169). -/
theorem euOvf_above_max {w : Width} {sg : Sign} {r d r' x : Int} (hr : Representable w sg r) (hd : 0 ≤ d)
    (h : euclideanOutcome w sg r d = .euOvf r' x) : r' < 0 ∧ maxVal w sg < x := by
  rw [euclideanOutcome] at h
  split_ifs at h with hnonneg hx
  cases h
  have hmin := hr.1
  exact ⟨not_le.mp hnonneg, not_le.mp fun hle => hx ⟨by omega, hle⟩⟩

/-- Settles O19: REMEUI's remainder is representable, and REMEU's adjustment never fails. -/
theorem euclideanOverflowIsOnlyRemeuiAboveMax : Obligations.EuclideanOverflowIsOnlyRemeuiAboveMax := by
  intro w sg f l r x
  refine ⟨fun h => ?_, fun h => ?_⟩
  · rw [remeuiOutcome] at h
    split_ifs at h
    refine euOvf_above_max (representable_remiValue (val_representable w sg l.opa) _ _) ?_ h
    rw [exactShift_eq]
    positivity
  · rw [remeuOutcome] at h
    split_ifs at h with hf hb
    rw [remValue_eq, (euclideanOutcome_tmod (val_representable w sg l.opb) hb _).1] at h
    cases h

end Sys2Proof.Machine

/-! # Roots, and what a result depends on

When the root of SQRT fails (45_sqrt.md R232), the reference algorithm's root (R233), and the operands a command reads
(30_encoding.md R99). -/

namespace Sys2Proof.Machine

/-! ## The roots that do not fit (45_sqrt.md R232) -/

theorem representable_unsigned_iff {w : Width} {x : Int} : Representable w .unsigned x ↔ 0 ≤ x ∧ x < 2 ^ w.bits := by
  simp only [Representable, minVal, maxVal]
  push_cast
  omega

theorem representable_signed_iff {w : Width} {x : Int} :
    Representable w .signed x ↔ -2 ^ (w.bits - 1) ≤ x ∧ x < 2 ^ (w.bits - 1) := by
  simp only [Representable, minVal, maxVal]
  push_cast
  omega

/-- An unsigned root is below 2^N: its square is below 2^N · 2^N. -/
theorem root_lt_of_unsigned {a r N : Int} {f n : Nat} (hN : 2 ^ n = N) (hf : f ≤ n) (ha : 0 ≤ a) (haN : a < N)
    (hroot : r * r ≤ a * 2 ^ f) : r < N := by
  have hpow : (2 : Int) ^ f ≤ N := hN ▸ pow_le_pow_right₀ one_le_two hf
  have hpos : (0 : Int) < 2 ^ f := by positivity
  by_contra! hge
  nlinarith

/-- A signed root reaches 2^(N−1) exactly for f = N and A ≥ 2^(N−2). -/
theorem two_pow_le_signed_root_iff {a r : Int} {f n : Nat} (hf : f ≤ n + 2) (ha : a < 2 ^ (n + 1)) (hr : 0 ≤ r)
    (hlower : r * r ≤ a * 2 ^ f) (hupper : a * 2 ^ f < (r + 1) * (r + 1)) :
    2 ^ (n + 1) ≤ r ↔ f = n + 2 ∧ 2 ^ n ≤ a := by
  have hq : (0 : Int) < 2 ^ n := by positivity
  have hhalf : (2 : Int) ^ (n + 1) = 2 * 2 ^ n := pow_succ' 2 n
  have hfull : (2 : Int) ^ (n + 2) = 4 * 2 ^ n := by rw [pow_add, mul_comm]; norm_num
  rw [hhalf] at ha ⊢
  generalize (2 : Int) ^ n = q at *
  constructor
  · intro hge
    have hfn : f = n + 2 := by
      by_contra hne
      have hpow : (2 : Int) ^ f ≤ 2 * q := hhalf ▸ pow_le_pow_right₀ one_le_two (by omega)
      have hpos : (0 : Int) < 2 ^ f := by positivity
      nlinarith
    rw [hfn, hfull] at hlower
    exact ⟨hfn, by nlinarith⟩
  · rintro ⟨rfl, hge⟩
    rw [hfull] at hupper
    nlinarith

/-- Settles O21: an unsigned root always fits, and a signed one fails exactly from 2^(N−1) on. -/
theorem sqrtOverflowsOnlyAtFullSignedFraction : Obligations.SqrtOverflowsOnlyAtFullSignedFraction := by
  intro w sg f l r hnonneg hle hr hlower hupper
  have ha := val_representable w sg l.opa
  cases sg with
  | unsigned =>
    obtain ⟨ha0, haN⟩ := representable_unsigned_iff.mp ha
    have hlt := root_lt_of_unsigned rfl (by omega) ha0 haN hlower
    have hx : Representable w .unsigned r := representable_unsigned_iff.mpr ⟨hr, hlt⟩
    exact iff_of_false (not_not.mpr hx) nofun
  | signed =>
    obtain ⟨n, hn⟩ : ∃ n, w.bits = n + 2 := ⟨w.bits - 2, by cases w <;> rfl⟩
    have hrange := representable_signed_iff (w := w) (x := r)
    obtain ⟨-, haH⟩ := representable_signed_iff.mp ha
    simp only [hn, Nat.add_sub_cancel, show n + 2 - 1 = n + 1 from rfl] at hrange haH hle ⊢
    have hroot := two_pow_le_signed_root_iff (n := n) (by omega) haH hr hlower hupper
    have hmin : -2 ^ (n + 1) ≤ r := (neg_nonpos.mpr (by positivity)).trans hr
    rw [hrange, not_and, forall_prop_of_true hmin, not_lt, hroot]
    simp only [true_and, Nat.cast_add, Nat.cast_ofNat]
    exact and_congr_left' (by omega)

/-! ## The reference algorithm (45_sqrt.md R233) -/

/-- The loop decides the bits of the root as `rootBits` does: with `bit` = 4^n and the bits above n decided as r, its
variables hold x − r² and r · 2^(n+1). -/
theorem digitLoop_eq_rootBits {x r : Nat} (n : Nat) (hr : r * r ≤ x) :
    digitLoop n (x - r * r) (r * 2 ^ (n + 1)) = rootBits x (n + 1) r := by
  induction n generalizing r with
  | zero =>
    have hsquare : (r + 2 ^ 0) * (r + 2 ^ 0) = r * r + (r * 2 ^ (0 + 1) + 1) := by ring
    have hhalf : r * 2 ^ (0 + 1) / 2 = r := by omega
    rw [digitLoop, rootBits, rootBits, rootBits, hsquare, hhalf]
    split_ifs <;> omega
  | succ n ih =>
    have hsquare : (r + 2 ^ (n + 1)) * (r + 2 ^ (n + 1)) = r * r + (r * 2 ^ (n + 1 + 1) + 4 ^ (n + 1)) := by
      rw [show (4 : Nat) = 2 * 2 from rfl, mul_pow]
      ring
    have hhalf : r * 2 ^ (n + 1 + 1) / 2 = r * 2 ^ (n + 1) := by
      rw [pow_succ 2 (n + 1), ← mul_assoc, Nat.mul_div_cancel _ two_pos]
    have hroot : r * 2 ^ (n + 1) + 4 ^ (n + 1) = (r + 2 ^ (n + 1)) * 2 ^ (n + 1) := by
      rw [show (4 : Nat) = 2 * 2 from rfl, mul_pow]
      ring
    rw [digitLoop, rootBits, hhalf]
    by_cases hbit : (r + 2 ^ (n + 1)) * (r + 2 ^ (n + 1)) ≤ x
    · rw [if_pos (by omega), if_pos hbit, ← ih hbit, hsquare, Nat.sub_sub, hroot]
    · rw [if_neg (by omega), if_neg hbit, ih hr]

/-- Settles O22: both roots are the library's, the loop's because its bits close in on the root from below
2^(log2 x / 2 + 1). -/
theorem digitByDigitRootIsTheFloorRoot : Obligations.DigitByDigitRootIsTheFloorRoot := by
  intro x
  have hloop : digitByDigitRoot x = rootBits x (x.log2 / 2 + 1) 0 := by
    have h := digitLoop_eq_rootBits (x.log2 / 2) (r := 0) x.zero_le
    rwa [zero_mul, zero_mul, Nat.sub_zero] at h
  have hupper : x < (0 + 2 ^ (x.log2 / 2 + 1)) * (0 + 2 ^ (x.log2 / 2 + 1)) := by
    rw [zero_add, ← pow_add]
    exact Nat.lt_log2_self.trans_le (Nat.pow_le_pow_right two_pos (by omega))
  have hroot : digitByDigitRoot x = x.sqrt := by
    rw [hloop]
    exact Nat.eq_sqrt.mpr (rootBits_isFloorRoot x.zero_le hupper)
  rw [hroot, isqrt_eq_sqrt]
  exact ⟨rfl, Nat.sqrt_le x, Nat.lt_succ_sqrt x⟩

/-! ## The operands a command reads (30_encoding.md R99) -/

/-- Bits [127:N] of an operand register are ignored (10_state.md R22). -/
theorem val_congr {w : Width} {p q : Word128} (h : p.setWidth w.bits = q.setWidth w.bits) (sg : Sign) :
    val w sg p = val w sg q := by
  simp only [val, h]

/-- The text depends on the operand's value and on RCFG alone. -/
theorem render_congr {w : Width} {sg : Sign} {p q : Word128} (h : val w sg p = val w sg q) (r : Radix) (f : Nat)
    (rcfg : Word32) : render r w sg f p rcfg = render r w sg f q rcfg := by
  simp only [render, renderNeg, renderBody, renderMag, h]

theorem resultOf_congr {i : Instr} {l₁ l₂ : Latch} (h : SameOperands i l₁ l₂) : resultOf i l₁ = resultOf i l₂ := by
  obtain ⟨hopa, hopb, hopc, hrcfg⟩ := h
  have ha := val_congr hopa i.fields.sg
  have hb := fun hop => val_congr (hopb hop) i.fields.sg
  have hc := fun hop => val_congr (hopc hop) i.fields.sg
  simp only [resultOf]
  cases hop : i.fields.op with
  | mul | div | rem | remeu | remi | remeui =>
    rw [hop] at hb
    simp only [mulOutcome, divOutcome, remOutcome, remeuOutcome, remiOutcome, remeuiOutcome, ha, hb rfl]
  | muladd =>
    rw [hop] at hb hc
    simp only [muladdOutcome, ha, hb rfl, hc rfl]
  | sqrt => simp only [sqrtOutcome, ha]
  | rdec | rbin | roct | rhexl | rhexu =>
    rw [hop] at hrcfg
    simp only [renderCompletion, hrcfg rfl, render_congr ha]

/-- Settles O25: the completion is `resultOf`, which reads the latch only as R99 lists. -/
theorem resultDependsOnlyOnTheOperandsRead : Obligations.ResultDependsOnlyOnTheOperandsRead :=
  fun i _ _ l₁ _ h₁ h₂ hsame =>
    ⟨resultOf i l₁, exec_of_inflight h₁ i, by rw [exec_of_inflight h₂, resultOf_congr hsame]⟩

end Sys2Proof.Machine

/-! # The renderer's digits

Rounding is to nearest with ties to even (46_render.md R255), the automatic digit count is the least that meets R258's
criterion, and the digits written denote the rounded value (R261), so they recover the operand (R283). -/

namespace Sys2Proof.Machine

/-! ## Rounding (46_render.md R255) -/

/-- Rounding keeps the quotient below half a unit, takes the next above it, and the even one of the two at half. -/
theorem roundHalfEven_cases (num f : Nat) :
    roundHalfEven num f = num / 2 ^ f
        ∧ (2 * (num % 2 ^ f) < 2 ^ f ∨ 2 * (num % 2 ^ f) = 2 ^ f ∧ num / 2 ^ f % 2 = 0)
      ∨ roundHalfEven num f = num / 2 ^ f + 1
        ∧ (2 ^ f < 2 * (num % 2 ^ f) ∨ 2 * (num % 2 ^ f) = 2 ^ f ∧ num / 2 ^ f % 2 = 1) := by
  simp only [roundHalfEven]
  split_ifs <;> omega

/-- Whichever way it rounds, the distance is the smaller of the remainder and its complement. -/
theorem abs_sub_roundHalfEven (num f : Nat) :
    |(num : Int) - roundHalfEven num f * 2 ^ f| = (min (num % 2 ^ f) (2 ^ f - num % 2 ^ f) : Nat) := by
  have hlt : num % 2 ^ f < 2 ^ f := Nat.mod_lt _ (Nat.two_pow_pos f)
  have hdecomp : (num : Int) = (num / 2 ^ f : Nat) * 2 ^ f + (num % 2 ^ f : Nat) := by
    exact_mod_cast (Nat.div_add_mod' num (2 ^ f)).symm
  rcases roundHalfEven_cases num f with ⟨h, hhalf⟩ | ⟨h, hhalf⟩
  · have hdist : (num : Int) - roundHalfEven num f * 2 ^ f = (num % 2 ^ f : Nat) := by
      rw [h]
      linear_combination hdecomp
    rw [hdist, Nat.abs_cast, min_eq_left (by omega)]
  · have hdist : (num : Int) - roundHalfEven num f * 2 ^ f = -(2 ^ f - num % 2 ^ f : Nat) := by
      rw [h, Nat.cast_sub hlt.le]
      push_cast at hdecomp ⊢
      linear_combination hdecomp
    rw [hdist, abs_neg, Nat.abs_cast, min_eq_right (by omega)]

/-- Settles O34: the distance is at most half a unit, and at exactly half the quotient's parity decides. -/
theorem roundingIsToNearestTiesToEven : Obligations.RoundingIsToNearestTiesToEven := by
  intro num f
  rw [abs_sub_roundHalfEven]
  norm_cast
  refine ⟨by omega, fun htie => ?_⟩
  rcases roundHalfEven_cases num f with ⟨h, hhalf⟩ | ⟨h, hhalf⟩ <;> omega

/-- A whole number of units is not rounded. -/
theorem roundHalfEven_of_dvd {num f : Nat} (h : 2 ^ f ∣ num) : roundHalfEven num f * 2 ^ f = num := by
  have hmod : num % 2 ^ f = 0 := Nat.mod_eq_zero_of_dvd h
  have hpos := Nat.two_pow_pos f
  rcases roundHalfEven_cases num f with ⟨hround, -⟩ | ⟨-, hhalf⟩
  · rw [hround, Nat.div_mul_cancel h]
  · omega

/-! ## The automatic decimal digit count (46_render.md R258) -/

theorem autoStop_iff {fr f k : Nat} :
    autoStop fr f k = true ↔ 2 * min (fr * 10 ^ k % 2 ^ f) (2 ^ f - fr * 10 ^ k % 2 ^ f) < 10 ^ k :=
  decide_eq_true_iff

/-- f digits always meet the criterion: F · 10^f is a whole number of units. -/
theorem autoStop_self (fr f : Nat) : autoStop fr f f = true := by
  have hwhole : fr * 10 ^ f % 2 ^ f = 0 :=
    Nat.mod_eq_zero_of_dvd ((pow_dvd_pow_of_dvd (by decide) f).mul_left fr)
  rw [autoStop_iff, hwhole, Nat.zero_min, Nat.mul_zero]
  positivity

/-- The search stops at the first count that meets the criterion. -/
theorem autoSearch_isLeast {fr f fuel k : Nat} (h : autoStop fr f (k + fuel) = true) :
    autoStop fr f (autoSearch fr f fuel k) = true
      ∧ ∀ j, k ≤ j → j < autoSearch fr f fuel k → autoStop fr f j = false := by
  induction fuel generalizing k with
  | zero => exact ⟨h, fun j hle hlt => absurd hlt hle.not_gt⟩
  | succ fuel ih =>
    rw [autoSearch]
    split_ifs with hstop
    · exact ⟨hstop, fun j hle hlt => absurd hlt hle.not_gt⟩
    · obtain ⟨hfound, hbefore⟩ := ih (k := k + 1) (by rwa [Nat.add_right_comm])
      refine ⟨hfound, fun j hle hlt => ?_⟩
      rcases hle.eq_or_lt with rfl | hlt'
      · exact Bool.eq_false_iff.mpr hstop
      · exact hbefore j hlt' hlt

theorem autoDecimalDigits_isLeast (fr f : Nat) :
    autoStop fr f (autoDecimalDigits fr f) = true ∧ ∀ j < autoDecimalDigits fr f, autoStop fr f j = false := by
  obtain ⟨hfound, hbefore⟩ := autoSearch_isLeast (fr := fr) (f := f) (fuel := f) (k := 0)
    (by rw [Nat.zero_add]; exact autoStop_self fr f)
  exact ⟨hfound, fun j hlt => hbefore j j.zero_le hlt⟩

/-- Settles O35: the search stops at the first count that meets the criterion, and f meets it. -/
theorem automaticDecimalCountIsLeast : Obligations.AutomaticDecimalCountIsLeast := by
  intro fr f _
  obtain ⟨hfound, hbefore⟩ := autoDecimalDigits_isLeast fr f
  refine ⟨autoDecimalDigits_le fr f, autoStop_iff.mp hfound, fun k hk => ?_⟩
  exact not_lt.mp (mt autoStop_iff.mpr (Bool.eq_false_iff.mp (hbefore k hk)))

/-! ## The digits (46_render.md R261) -/

/-- The model's digits are the library's, most significant first. -/
theorem digitsInto_eq {b : Nat} (hb : 2 ≤ b) {fuel u : Nat} (hu : u < 2 ^ fuel) (acc : List Nat) :
    digitsInto b fuel u acc = (Nat.digits b u).reverse ++ acc := by
  induction fuel generalizing u acc with
  | zero =>
    obtain rfl : u = 0 := Nat.lt_one_iff.mp hu
    simp [digitsInto]
  | succ fuel ih =>
    rw [digitsInto]
    split_ifs with hzero
    · simp [hzero]
    · have hhalf : u / b < 2 ^ fuel := by
        calc u / b ≤ u / 2 := Nat.div_le_div_left hb two_pos
          _ < 2 ^ fuel := Nat.div_lt_of_lt_mul (by rwa [← pow_succ'])
      have hdigits : Nat.digits b u = u % b :: Nat.digits b (u / b) := Nat.digits_def' (by omega) (by omega)
      rw [ih hhalf, hdigits, List.reverse_cons, List.append_assoc, List.singleton_append]

theorem digitsOf_eq {b : Nat} (hb : 2 ≤ b) (u : Nat) : digitsOf b u = (Nat.digits b u).reverse := by
  rw [digitsOf, digitsInto_eq hb Nat.lt_log2_self, List.append_nil]

/-- The value of a digit list is the library's, which reads the least significant digit first. -/
theorem digitsValue_eq (b : Nat) (ds : List Nat) : digitsValue b ds = Nat.ofDigits b ds.reverse := by
  induction ds using List.reverseRecOn with
  | nil => rfl
  | append_singleton ds d ih =>
    rw [List.reverse_concat, Nat.ofDigits_cons, ← ih, digitsValue, List.foldl_concat, ← digitsValue]
    ring

/-- The digits of the rounded value, as the library's digits with the zeros that pad them. -/
theorem roundedDigits_eq (r : Radix) (f mag k : Nat) :
    roundedDigits r f mag k
      = padDigits (k + 1) (Nat.digits (radixBase r) (roundHalfEven (mag * radixBase r ^ k) f)).reverse := by
  rw [roundedDigits, digitsOf_eq (two_le_radixBase r)]

/-- Leading zeros do not change the value. -/
theorem digitsValue_padDigits (b n : Nat) (ds : List Nat) : digitsValue b (padDigits n ds) = digitsValue b ds := by
  rw [digitsValue_eq, digitsValue_eq, padDigits, List.reverse_append, List.reverse_replicate,
    Nat.ofDigits_append_replicate_zero]

theorem padDigits_length (n : Nat) (ds : List Nat) : (padDigits n ds).length = max n ds.length := by
  rw [padDigits, List.length_append, List.length_replicate]
  omega

/-- Digits that need no padding are left as they are. -/
theorem padDigits_of_le {n : Nat} {ds : List Nat} (h : n ≤ ds.length) : padDigits n ds = ds := by
  rw [padDigits, Nat.sub_eq_zero_of_le h, List.replicate_zero, List.nil_append]

/-- The most significant of the library's digits is not 0. -/
theorem head?_reverse_digits (b u : Nat) : (Nat.digits b u).reverse.head? ≠ some 0 := by
  rw [List.head?_reverse]
  intro h
  have hu : u ≠ 0 := by
    rintro rfl
    simp at h
  exact Nat.getLast_digit_ne_zero b hu (List.getLast_of_getLast?_eq_some h)

/-- Settles O37: the digits are the library's, and padding adds leading zeros only up to k + 1 digits. -/
theorem digitsDenoteTheRoundedValue : Obligations.DigitsDenoteTheRoundedValue := by
  intro r f mag k
  have hbase := two_le_radixBase r
  simp only [roundedDigits_eq]
  generalize roundHalfEven (mag * radixBase r ^ k) f = u
  refine ⟨?_, fun d hd => ?_, ?_, fun hlong => ?_⟩
  · rw [digitsValue_padDigits, digitsValue_eq, List.reverse_reverse, Nat.ofDigits_digits]
  · rw [padDigits, List.mem_append, List.mem_replicate, List.mem_reverse] at hd
    rcases hd with ⟨-, rfl⟩ | hd
    · omega
    · exact Nat.digits_lt_base hbase hd
  · rw [padDigits_length]
    exact le_max_left _ _
  · rw [padDigits_length] at hlong
    rw [padDigits_of_le (by omega)]
    exact head?_reverse_digits _ u

/-! ## The round trip (46_render.md section 5) -/

theorem radixBase_of_digitBits {r : Radix} {b : Nat} (h : digitBits r = some b) : radixBase r = 2 ^ b := by
  cases r <;> cases h <;> rfl

/-- Settles O36: with enough digits of a power-of-two radix nothing is rounded away, and the distance in the other
clause is what the criterion of R258 bounds. -/
theorem renderedDigitsRoundTrip : Obligations.RenderedDigitsRoundTrip := by
  refine ⟨fun r b f k mag hb hk => ?_, fun mag f => ?_⟩
  · have hwhole : 2 ^ f ∣ mag * radixBase r ^ k := by
      rw [radixBase_of_digitBits hb, ← pow_mul]
      exact (pow_dvd_pow 2 hk).mul_left mag
    rw [(digitsDenoteTheRoundedValue r f mag k).1, roundHalfEven_of_dvd hwhole]
  · intro k
    have hvalue : digitsValue 10 (roundedDigits .dec f mag k) = roundHalfEven (mag * 10 ^ k) f :=
      (digitsDenoteTheRoundedValue .dec f mag k).1
    have hcriterion := autoStop_iff.mp (autoDecimalDigits_isLeast (mag % 2 ^ f) f).1
    have hdist := abs_sub_roundHalfEven (mag * 10 ^ k) f
    rw [Nat.mod_mul_mod] at hcriterion
    push_cast at hdist
    rw [hvalue, abs_sub_comm, hdist]
    exact_mod_cast hcriterion

end Sys2Proof.Machine

/-! # The rendered text

The digit characters and the body they make (46_render.md R251, R252, R260), the padding (R264 to R271), and the text
from the operand's value and RCFG (R272). -/

namespace Sys2Proof.Machine

/-- Settles O33: `render_length_le`, which O32 rests on. -/
theorem renderedTextHasAtMost387Bytes : Obligations.RenderedTextHasAtMost387Bytes :=
  fun r _ sg _ opa rcfg hf => render_length_le hf r sg opa rcfg

/-! ## The body (46_render.md R251, R252, R260) -/

theorem toNat_digitChar {r : Radix} {d : Nat} (hd : d < radixBase r) :
    (digitChar r d).toNat
      = if d < 10 then 0x30 + d else if r = .hexUpper then 0x41 + d - 10 else 0x61 + d - 10 := by
  have hbase : radixBase r ≤ 16 := by cases r <;> decide
  have hletter : letterBase r = if r = .hexUpper then 0x41 else 0x61 := by cases r <;> rfl
  rw [digitChar, BitVec.toNat_ofNat, hletter]
  split_ifs <;> omega

/-- Trimming takes off trailing zeros, and all of them. -/
theorem trimZeros_spec (ds : List Nat) :
    (∃ z, ds = trimZeros ds ++ List.replicate z 0) ∧ (trimZeros ds).getLast? ≠ some 0 := by
  have htrim : trimZeros ds = ds.rdropWhile (· == 0) := rfl
  rw [htrim]
  refine ⟨⟨(ds.rtakeWhile (· == 0)).length, ?_⟩, fun h => ?_⟩
  · have hzeros : ds.rtakeWhile (· == 0) = List.replicate (ds.rtakeWhile (· == 0)).length 0 :=
      List.eq_replicate_of_mem fun d hd => by simpa using List.mem_rtakeWhile_imp hd
    rw [← hzeros, List.rdropWhile_append_rtakeWhile]
  · have hne : ds.rdropWhile (· == 0) ≠ [] := by
      intro hnil
      simp [hnil] at h
    have hlast := List.rdropWhile_last_not (· == 0) ds hne
    rw [List.getLast_of_getLast?_eq_some h] at hlast
    exact hlast rfl

/-- Settles O38: the digits are cut before the last k, and only the fraction is trimmed. -/
theorem digitBodyPlacesThePointAndTrims : Obligations.DigitBodyPlacesThePointAndTrims := by
  refine ⟨fun r d hd => toNat_digitChar hd, fun r k trim ds _ => ?_⟩
  have hcut := List.take_append_drop (ds.length - k) ds
  have hlength : (ds.take (ds.length - k)).length = ds.length - k := by
    rw [List.length_take]
    omega
  cases trim with
  | false =>
    refine ⟨ds.take (ds.length - k), ds.drop (ds.length - k), 0, ?_, hlength, fun _ => rfl, nofun, rfl⟩
    rw [List.replicate_zero, List.append_nil, hcut]
  | true =>
    obtain ⟨⟨z, hz⟩, hlast⟩ := trimZeros_spec (ds.drop (ds.length - k))
    refine ⟨ds.take (ds.length - k), trimZeros (ds.drop (ds.length - k)), z, ?_, hlength, nofun, fun _ => hlast, rfl⟩
    rw [List.append_assoc, ← hz, hcut]

/-! ## Padding (46_render.md R264 to R271) -/

/-- WIDTH not above the content's length pads nothing, wherever the padding would go. -/
theorem padText_of_width_le {rcfg : Word32} {sign pre body : List Byte}
    (h : rcfgWidth rcfg ≤ (sign ++ pre ++ body).length) : padText rcfg sign pre body = sign ++ pre ++ body := by
  simp only [padText, fillText, Nat.sub_eq_zero_of_le h, Nat.zero_div, Nat.sub_zero, List.replicate_zero,
    List.append_nil, List.nil_append]
  split_ifs
  · rfl
  · cases rcfgAlign rcfg <;> rfl

theorem padText_of_zpad {rcfg : Word32} (h : rcfgZpad rcfg = true) (sign pre body : List Byte) :
    padText rcfg sign pre body
      = sign ++ pre ++ List.replicate (rcfgWidth rcfg - (sign ++ pre ++ body).length) chZero ++ body := by
  simp only [padText, h, if_true]

/-- The content `c` with `n` fill bytes, placed by ALIGN (46_render.md R266 to R268). -/
def alignText (rcfg : Word32) (n : Nat) (c : List Byte) : Align → List Byte
  | .left => c ++ fillText rcfg n
  | .right | .unspecified => fillText rcfg n ++ c
  | .center => fillText rcfg (n / 2) ++ c ++ fillText rcfg (n - n / 2)

/-- Without ZPAD, ALIGN alone places the fill bytes. -/
theorem padText_of_align {rcfg : Word32} (h : rcfgZpad rcfg = false) {a : Align} (ha : rcfgAlign rcfg = a)
    (sign pre body : List Byte) :
    padText rcfg sign pre body
      = alignText rcfg (rcfgWidth rcfg - (sign ++ pre ++ body).length) (sign ++ pre ++ body) a := by
  simp only [padText, h, Bool.false_eq_true, if_false, ha]
  cases a <;> simp only [alignText]

/-- The four codes of ALIGN (10_state.md R26). -/
theorem rcfgAlign_eq {rcfg : Word32} {code : BitVec 2} (h : rcfg.extractLsb' 17 2 = code) :
    rcfgAlign rcfg
      = if code = 1#2 then .left else if code = 2#2 then .right else if code = 3#2 then .center else .unspecified := by
  rw [rcfgAlign, h]
  clear h
  revert code
  decide

/-- Settles O41: the clauses are the branches of the padding, on the bits of RCFG that choose them. -/
theorem paddingFollowsZpadThenAlign : Obligations.PaddingFollowsZpadThenAlign := by
  intro rcfg sign pre body
  refine ⟨padText_of_width_le, fun _ hzpad => padText_of_zpad hzpad sign pre body, fun _ hzpad => ⟨?_, ?_, ?_⟩⟩
  · exact fun h => padText_of_align hzpad (rcfgAlign_eq h) sign pre body
  · rintro (h | h) <;> exact padText_of_align hzpad (rcfgAlign_eq h) sign pre body
  · exact fun h => padText_of_align hzpad (rcfgAlign_eq h) sign pre body

/-! ## The parts of the text (46_render.md R272) -/

theorem signText_eq_shownSign (w : Width) (sg : Sign) (opa : Word128) (rcfg : Word32) :
    signText (renderNeg w sg opa) rcfg = shownSign w sg opa rcfg := by
  simp only [signText, shownSign, renderNeg, decide_eq_true_eq]
  rfl

theorem prefixText_eq_shownPrefix (r : Radix) (rcfg : Word32) : prefixText r rcfg = shownPrefix r rcfg := by
  cases r <;> rfl

/-- The natural count ceil(f / b) of R257, for each radix. -/
theorem fracDigitCount_eq_shownDigitCount (r : Radix) (f mag : Nat) (rcfg : Word32) :
    fracDigitCount r f mag rcfg = shownDigitCount r f mag rcfg := by
  by_cases hen : rcfg.getLsbD 0 = true
  · have hprecEn : rcfgPrecEn rcfg = true := hen
    simp only [fracDigitCount, shownDigitCount, if_pos hprecEn, if_pos hen, rcfgPrec]
  · have hprecEn : ¬ rcfgPrecEn rcfg = true := hen
    simp only [fracDigitCount, shownDigitCount, if_neg hprecEn, if_neg hen]
    cases r with
    | bin => exact Nat.div_one f
    | dec | oct | hexLower | hexUpper => rfl

theorem renderBody_eq_shownBody (r : Radix) (w : Width) (sg : Sign) (f : Nat) (opa : Word128) (rcfg : Word32) :
    renderBody r w sg f opa rcfg = shownBody r w sg f opa rcfg := by
  simp only [renderBody, shownBody, fracDigitCount_eq_shownDigitCount]
  rfl

/-- Settles O40: part by part. -/
theorem renderedTextIsThePaddedSignPrefixAndBody : Obligations.RenderedTextIsThePaddedSignPrefixAndBody := by
  intro r w sg f opa rcfg
  rw [render, signText_eq_shownSign, prefixText_eq_shownPrefix, renderBody_eq_shownBody]

/-- Settles O39: with WIDTH = 0 the padding of O40 adds nothing. -/
theorem unpaddedTextIsSignPrefixAndBody : Obligations.UnpaddedTextIsSignPrefixAndBody := by
  intro r w sg f opa rcfg hwidth
  rw [renderedTextIsThePaddedSignPrefixAndBody r w sg f opa rcfg]
  exact padText_of_width_le (hwidth.trans_le (Nat.zero_le _))

end Sys2Proof.Machine

/-! # Patterns and their values

What a pattern of any width denotes by its signedness, and the operations of the tiers on what their operands denote:
extension, the realigning shift, and the overflow tests of 40_arith_common.md R132 and 43_muladd.md R193. -/

namespace Sys2Proof.Machine

/-! ## Values and their ranges -/

/-- The integer a pattern of any width denotes (00_scope.md section 5.2). -/
def patternVal {m : Nat} (sg : Sign) (q : BitVec m) : Int :=
  match sg with
  | .unsigned => q.toNat
  | .signed => q.toInt

/-- The range of the patterns of m bits; the signed bounds are doubled, so that m = 0 is no exception. -/
def InRange (m : Nat) (sg : Sign) (x : Int) : Prop :=
  match sg with
  | .unsigned => 0 ≤ x ∧ x < 2 ^ m
  | .signed => -2 ^ m ≤ 2 * x ∧ 2 * x < 2 ^ m

theorem val_eq_patternVal (w : Width) (sg : Sign) (p : Word128) : val w sg p = patternVal sg (p.setWidth w.bits) := by
  cases sg <;> rfl

theorem representable_iff_inRange {w : Width} {sg : Sign} {x : Int} : Representable w sg x ↔ InRange w.bits sg x := by
  cases sg with
  | unsigned => exact representable_unsigned_iff
  | signed =>
    have hhalf : (2 : Int) ^ w.bits = 2 * 2 ^ (w.bits - 1) := (mul_pow_sub_one (bits_pos w).ne' 2).symm
    rw [representable_signed_iff, InRange, hhalf]
    omega

theorem patternVal_inRange {m : Nat} (sg : Sign) (q : BitVec m) : InRange m sg (patternVal sg q) := by
  cases sg with
  | unsigned =>
    have hlt := q.isLt
    exact ⟨Int.natCast_nonneg _, by rw [patternVal]; exact_mod_cast hlt⟩
  | signed => exact ⟨BitVec.le_two_mul_toInt, BitVec.two_mul_toInt_lt⟩

@[simp] theorem ofInt_patternVal {m : Nat} (sg : Sign) (q : BitVec m) : BitVec.ofInt m (patternVal sg q) = q := by
  cases sg with
  | unsigned => rw [patternVal, BitVec.ofInt_natCast, BitVec.ofNat_toNat, BitVec.setWidth_eq]
  | signed => exact BitVec.ofInt_toInt

theorem patternVal_ofInt {m : Nat} {sg : Sign} {x : Int} (hx : InRange m sg x) :
    patternVal sg (BitVec.ofInt m x) = x := by
  cases sg with
  | unsigned =>
    obtain ⟨hlower, hupper⟩ := hx
    rw [patternVal, BitVec.toNat_ofInt, Int.emod_eq_of_lt hlower (by exact_mod_cast hupper), Int.toNat_of_nonneg hlower]
  | signed =>
    obtain ⟨hlower, hupper⟩ := hx
    rw [patternVal, BitVec.toInt_ofInt]
    exact Int.bmod_eq_of_le_mul_two (by push_cast; omega) (by push_cast; omega)

/-- Two numbers have the same pattern exactly when they differ by a multiple of 2^m. -/
theorem ofInt_eq_ofInt_iff {m : Nat} {x y : Int} : BitVec.ofInt m x = BitVec.ofInt m y ↔ (2 : Int) ^ m ∣ x - y := by
  have hcast : ((2 ^ m : Nat) : Int) = 2 ^ m := by push_cast; rfl
  have hne : (2 : Int) ^ m ≠ 0 := by positivity
  rw [← BitVec.toNat_inj, BitVec.toNat_ofInt, BitVec.toNat_ofInt, hcast, ← Int.natCast_inj,
    Int.toNat_of_nonneg (Int.emod_nonneg x hne), Int.toNat_of_nonneg (Int.emod_nonneg y hne),
    Int.emod_eq_emod_iff_emod_sub_eq_zero, Int.dvd_iff_emod_eq_zero]

/-- Truncation keeps the low bits of any number's pattern. -/
theorem setWidth_ofInt {n m : Nat} (h : n ≤ m) (x : Int) : (BitVec.ofInt m x).setWidth n = BitVec.ofInt n x := by
  have hlow : (BitVec.ofInt m x).setWidth n = BitVec.ofInt n (patternVal .unsigned (BitVec.ofInt m x)) := by
    rw [patternVal, BitVec.ofInt_natCast, BitVec.ofNat_toNat]
  have hwide : (2 : Int) ^ m ∣ patternVal .unsigned (BitVec.ofInt m x) - x :=
    ofInt_eq_ofInt_iff.mp (ofInt_patternVal ..)
  rw [hlow, ofInt_eq_ofInt_iff]
  exact (pow_dvd_pow 2 h).trans hwide

theorem InRange.mono {n m : Nat} {sg : Sign} {x : Int} (hx : InRange n sg x) (h : n ≤ m) : InRange m sg x := by
  have hpow : (2 : Int) ^ n ≤ 2 ^ m := pow_le_pow_right₀ one_le_two h
  cases sg with
  | unsigned => exact ⟨hx.1, hx.2.trans_le hpow⟩
  | signed => exact ⟨(neg_le_neg hpow).trans hx.1, hx.2.trans_le hpow⟩

/-- A shift to the left by k needs k more bits. -/
theorem InRange.shiftLeft {n : Nat} {sg : Sign} {x : Int} (hx : InRange n sg x) (k : Nat) :
    InRange (n + k) sg (x * 2 ^ k) := by
  have hpos : (0 : Int) < 2 ^ k := by positivity
  cases sg with
  | unsigned =>
    obtain ⟨hlower, hupper⟩ := hx
    exact ⟨mul_nonneg hlower hpos.le, by rw [pow_add]; exact mul_lt_mul_of_pos_right hupper hpos⟩
  | signed =>
    obtain ⟨hlower, hupper⟩ := hx
    refine ⟨?_, ?_⟩ <;> rw [pow_add, ← mul_assoc]
    · rw [← neg_mul]
      exact mul_le_mul_of_nonneg_right hlower hpos.le
    · exact mul_lt_mul_of_pos_right hupper hpos

/-- A product of two N-bit operands fits in 2N bits (41_multiply.md R152). -/
theorem InRange.mul {n : Nat} {sg : Sign} {x y : Int} (hx : InRange n sg x) (hy : InRange n sg y) :
    InRange (2 * n) sg (x * y) := by
  have hpos : (0 : Int) < 2 ^ n := by positivity
  cases sg with
  | unsigned =>
    obtain ⟨hxl, hxu⟩ := hx
    obtain ⟨hyl, hyu⟩ := hy
    refine ⟨mul_nonneg hxl hyl, ?_⟩
    rw [two_mul, pow_add]
    exact mul_lt_mul'' hxu hyu hxl hyl
  | signed =>
    obtain ⟨hxl, hxu⟩ := hx
    obtain ⟨hyl, hyu⟩ := hy
    have hbound : |2 * x| * |2 * y| ≤ 2 ^ n * 2 ^ n :=
      mul_le_mul (abs_le.mpr ⟨hxl, hxu.le⟩) (abs_le.mpr ⟨hyl, hyu.le⟩) (abs_nonneg _) hpos.le
    rw [← abs_mul] at hbound
    obtain ⟨hlower, hupper⟩ := abs_le.mp hbound
    have hsquare : (0 : Int) < 2 ^ n * 2 ^ n := mul_pos hpos hpos
    rw [InRange, two_mul n, pow_add]
    constructor <;> linarith

/-- A number whose floor at 2^k fits in n bits fits in n + k bits. -/
theorem inRange_of_floorShift {n k : Nat} (hn : 0 < n) {sg : Sign} {x : Int} (h : InRange n sg (floorShift x k)) :
    InRange (n + k) sg x := by
  have hpos : (0 : Int) < 2 ^ k := by positivity
  have hfloor := (floorShift_eq_iff x (floorShift x k) k).mp rfl
  generalize floorShift x k = q at h hfloor
  push_cast at hfloor
  obtain ⟨hfl, hfu⟩ := hfloor
  cases sg with
  | unsigned =>
    obtain ⟨hlower, hupper⟩ := h
    refine ⟨(mul_nonneg hlower hpos.le).trans hfl, ?_⟩
    rw [pow_add]
    exact hfu.trans_le (mul_le_mul_of_nonneg_right hupper hpos.le)
  | signed =>
    obtain ⟨hlower, hupper⟩ := h
    have heven : (2 : Int) ^ n = 2 * 2 ^ (n - 1) := (mul_pow_sub_one hn.ne' 2).symm
    have hnext : 2 * (q + 1) ≤ 2 ^ n := by omega
    rw [InRange, pow_add]
    constructor <;> nlinarith

/-! ## Extension and shifts -/

theorem patternVal_extendTo {n m : Nat} (h : n ≤ m) (sg : Sign) (p : BitVec n) :
    patternVal sg (extendTo m sg p) = patternVal sg p := by
  cases sg with
  | unsigned => simp only [patternVal, extendTo, BitVec.toNat_setWidth_of_le h]
  | signed => simp only [patternVal, extendTo, BitVec.toInt_signExtend_of_le h]

theorem extendTo_eq_ofInt {n m : Nat} (h : n ≤ m) (sg : Sign) (p : BitVec n) :
    extendTo m sg p = BitVec.ofInt m (patternVal sg p) := by
  rw [← patternVal_extendTo h, ofInt_patternVal]

theorem patternVal_shiftPattern {m : Nat} (sg : Sign) (q : BitVec m) (k : Nat) :
    patternVal sg (shiftPattern sg q k) = floorShift (patternVal sg q) k := by
  cases sg with
  | unsigned =>
    rw [floorShift, shiftPattern, patternVal, patternVal, BitVec.toNat_ushiftRight, Nat.shiftRight_eq_div_pow,
      Int.natCast_ediv]
  | signed => rw [floorShift, shiftPattern, patternVal, patternVal, BitVec.toInt_sshiftRight, Int.shiftRight_eq_div_pow]

theorem shiftPattern_eq_ofInt {m : Nat} (sg : Sign) (q : BitVec m) (k : Nat) :
    shiftPattern sg q k = BitVec.ofInt m (floorShift (patternVal sg q) k) := by
  rw [← patternVal_shiftPattern, ofInt_patternVal]

theorem ofInt_shiftLeft (m : Nat) (x : Int) (k : Nat) : BitVec.ofInt m x <<< k = BitVec.ofInt m (x * 2 ^ k) := by
  have hpow : BitVec.twoPow m k = BitVec.ofInt m (2 ^ k) := by
    have hcast : (2 : Int) ^ k = ((2 ^ k : Nat) : Int) := by push_cast; rfl
    rw [hcast, BitVec.ofInt_natCast]
    exact BitVec.eq_of_toNat_eq (by rw [BitVec.toNat_twoPow, BitVec.toNat_ofNat])
  rw [BitVec.shiftLeft_eq_mul_twoPow, hpow, BitVec.ofInt_mul]

/-- The low n bits of a realigned pattern are those of the floored number, if the bits the shift brings down from
beyond the pattern stay above them: whatever the number was, and whether it fits the pattern or not. -/
theorem setWidth_shiftPattern {n m k : Nat} (h : n + k ≤ m) (sg : Sign) (x : Int) :
    (shiftPattern sg (BitVec.ofInt m x) k).setWidth n = BitVec.ofInt n (floorShift x k) := by
  have hpos : ((2 ^ k : Nat) : Int) ≠ 0 := (two_pow_pos k).ne'
  obtain ⟨c, hc⟩ : (2 : Int) ^ m ∣ patternVal sg (BitVec.ofInt m x) - x :=
    ofInt_eq_ofInt_iff.mp (ofInt_patternVal ..)
  have hsplit : (2 : Int) ^ m = 2 ^ n * 2 ^ (m - n - k) * ((2 ^ k : Nat) : Int) := by
    push_cast
    rw [← pow_add, ← pow_add]
    congr 1
    omega
  have hval : patternVal sg (BitVec.ofInt m x) = x + 2 ^ n * (2 ^ (m - n - k) * c) * ((2 ^ k : Nat) : Int) := by
    rw [hsplit] at hc
    linear_combination hc
  rw [shiftPattern_eq_ofInt, setWidth_ofInt (by omega), ofInt_eq_ofInt_iff, hval, floorShift, floorShift,
    Int.add_mul_ediv_right _ _ hpos, add_sub_cancel_left]
  exact dvd_mul_right _ _

/-! ## The overflow tests -/

/-- The bit that extends the low n bits of a pattern by its signedness. -/
def extensionBit {m : Nat} (sg : Sign) (n : Nat) (q : BitVec m) : Bool :=
  match sg with
  | .unsigned => false
  | .signed => q.getLsbD (n - 1)

theorem getLsbD_extendTo_setWidth {n m : Nat} (hn : 0 < n) (sg : Sign) (q : BitVec m) {i : Nat} (hi : i < m) :
    (extendTo m sg (q.setWidth n)).getLsbD i = if i < n then q.getLsbD i else extensionBit sg n q := by
  have hlast : n - 1 < n := by omega
  cases sg with
  | unsigned =>
    rw [extendTo, extensionBit, BitVec.getLsbD_setWidth, BitVec.getLsbD_setWidth]
    split_ifs with h <;> simp [h, hi]
  | signed =>
    rw [extendTo, extensionBit, BitVec.getLsbD_signExtend, BitVec.getLsbD_setWidth, BitVec.msb_eq_getLsbD_last,
      BitVec.getLsbD_setWidth]
    split_ifs with h <;> simp [h, hi, hlast]

/-- The high bits are all the same exactly when each of them is. -/
theorem extractLsb'_eq_iff {n m : Nat} (q : BitVec m) (b : Bool) :
    q.extractLsb' n (m - n) = (if b then BitVec.allOnes (m - n) else 0) ↔
      ∀ i, n ≤ i → i < m → q.getLsbD i = b := by
  have hbit : ∀ j < m - n, (if b then BitVec.allOnes (m - n) else 0 : BitVec (m - n)).getLsbD j = b := fun j hj => by
    cases b <;> simp [hj]
  constructor
  · intro hhigh i hni hi
    have hi' : i - n < m - n := by omega
    rw [← hbit (i - n) hi', ← hhigh, BitVec.getLsbD_extractLsb', Nat.add_sub_cancel' hni, decide_eq_true hi',
      Bool.true_and]
  · intro hall
    apply BitVec.eq_of_getLsbD_eq
    intro j hj
    rw [hbit j hj, BitVec.getLsbD_extractLsb', decide_eq_true hj, Bool.true_and, hall (n + j) (by omega) (by omega)]

/-- The test on the bits above the low n is whether each of them is the extension bit. -/
theorem highBitsTest_eq_false_iff {n m : Nat} (sg : Sign) (q : BitVec m) :
    highBitsTest sg n q = false ↔ ∀ i, n ≤ i → i < m → q.getLsbD i = extensionBit sg n q := by
  rw [← extractLsb'_eq_iff]
  cases sg <;> exact decide_eq_false_iff_not.trans not_not

/-- That is: the pattern is the extension of its low n bits. -/
theorem highBitsTest_eq_false_iff_extendTo {n m : Nat} (hn : 0 < n) (sg : Sign) (q : BitVec m) :
    highBitsTest sg n q = false ↔ extendTo m sg (q.setWidth n) = q := by
  rw [highBitsTest_eq_false_iff]
  constructor
  · intro hhigh
    apply BitVec.eq_of_getLsbD_eq
    intro i hi
    rw [getLsbD_extendTo_setWidth hn sg q hi]
    split_ifs with h
    · rfl
    · exact (hhigh i (not_lt.mp h) hi).symm
  · intro hext i hni hi
    have hbit := getLsbD_extendTo_setWidth hn sg q hi
    rwa [hext, if_neg hni.not_gt] at hbit

/-- 40_arith_common.md R132: the test on the high bits is the range test of the pattern's value. -/
theorem highBitsTest_iff {n m : Nat} (hn : 0 < n) (h : n ≤ m) (sg : Sign) (q : BitVec m) :
    highBitsTest sg n q = true ↔ ¬ InRange n sg (patternVal sg q) := by
  rw [← Bool.not_eq_false, highBitsTest_eq_false_iff_extendTo hn, not_iff_not]
  constructor
  · intro hext
    rw [← hext, patternVal_extendTo h]
    exact patternVal_inRange sg _
  · intro hx
    have hlow : q.setWidth n = BitVec.ofInt n (patternVal sg q) := by
      rw [← setWidth_ofInt h, ofInt_patternVal]
    rw [extendTo_eq_ofInt h, hlow, patternVal_ofInt hx, ofInt_patternVal]

/-- 43_muladd.md R193: the carry out (unsigned) or the signed overflow is the range test of the sum. -/
theorem addOverflow_iff {m : Nat} (hm : 0 < m) (sg : Sign) (x y : BitVec m) :
    addOverflow sg x y = true ↔ ¬ InRange m sg (patternVal sg x + patternVal sg y) := by
  cases sg with
  | unsigned =>
    simp only [addOverflow, InRange, patternVal, decide_eq_true_eq]
    norm_cast
    omega
  | signed =>
    have hoverflow : addOverflow .signed x y = BitVec.saddOverflow x y := by
      rw [BitVec.saddOverflow_eq, addOverflow]
      rfl
    have heven : (2 : Int) ^ m = 2 * 2 ^ (m - 1) := (mul_pow_sub_one hm.ne' 2).symm
    rw [hoverflow, BitVec.saddOverflow, InRange, patternVal, patternVal, heven]
    simp only [ge_iff_le, Bool.or_eq_true, decide_eq_true_eq]
    omega

end Sys2Proof.Machine

/-! # The widened tier

MUL, DIV and MULADD in 2N bits leave the wrapped exact result and its overflow (40_arith_common.md R133,
41_multiply.md R152, 42_divide_remainder.md R160, 43_muladd.md R192, R193), for every N above 0. -/

namespace Sys2Proof.Machine

/-- What every tier must leave for the exact result x: wrap_N(x), and V (40_arith_common.md R133). -/
structure LeavesResult (n : Nat) (sg : Sign) (x : Int) (t : TierResult n) : Prop where
  pattern : t.pattern = BitVec.ofInt n x
  overflow : t.overflow = true ↔ ¬ InRange n sg x

theorem LeavesResult.eq_mk {w : Width} {sg : Sign} {x : Int} {t : TierResult w.bits}
    (h : LeavesResult w.bits sg x t) :
    t = { pattern := BitVec.ofInt w.bits x, overflow := decide (¬ Representable w sg x) } := by
  obtain ⟨p, v⟩ := t
  have hv : v = decide (¬ Representable w sg x) := by
    rw [Bool.eq_iff_iff, h.overflow, decide_eq_true_iff, representable_iff_inRange]
  rw [hv, show p = BitVec.ofInt w.bits x from h.pattern]

/-! ## MUL (41_multiply.md R152) -/

/-- The product of the extended operands is the pattern of the exact product, which fits in 2N bits. -/
theorem extendTo_mul_extendTo {n : Nat} (sg : Sign) (a b : BitVec n) :
    extendTo (2 * n) sg a * extendTo (2 * n) sg b = BitVec.ofInt (2 * n) (patternVal sg a * patternVal sg b)
      ∧ InRange (2 * n) sg (patternVal sg a * patternVal sg b) := by
  have hle : n ≤ 2 * n := by omega
  refine ⟨?_, (patternVal_inRange sg a).mul (patternVal_inRange sg b)⟩
  rw [extendTo_eq_ofInt hle, extendTo_eq_ofInt hle, BitVec.ofInt_mul]

theorem widenedMul_leavesResult {n f : Nat} (hn : 0 < n) (hf : f ≤ n) (sg : Sign) (a b : BitVec n) :
    LeavesResult n sg (floorShift (patternVal sg a * patternVal sg b) f) (widenedMul n sg f a b) := by
  obtain ⟨hproduct, hfits⟩ := extendTo_mul_extendTo sg a b
  refine ⟨?_, ?_⟩
  · simp only [widenedMul]
    rw [hproduct, setWidth_shiftPattern (by omega)]
  · simp only [widenedMul]
    rw [highBitsTest_iff hn (by omega), patternVal_shiftPattern, hproduct, patternVal_ofInt hfits]

/-- Settles O26: the product fits in 2N bits, so the shift and the test see the exact numbers. -/
theorem widenedMulMatchesTheExactRule : Obligations.WidenedMulMatchesTheExactRule := by
  intro w sg f a b hf
  simp only [val_eq_patternVal]
  exact (widenedMul_leavesResult (bits_pos w) hf sg _ _).eq_mk

/-! ## DIV (42_divide_remainder.md R160) -/

/-- The quotient of two patterns by their signedness. -/
def dividePattern {m : Nat} (sg : Sign) (d e : BitVec m) : BitVec m :=
  match sg with
  | .unsigned => d / e
  | .signed => d.sdiv e

theorem widenedDiv_eq (n : Nat) (sg : Sign) (f : Nat) (a b : BitVec n) :
    widenedDiv n sg f a b
      = { pattern := (dividePattern sg (extendTo (2 * n) sg a <<< f) (extendTo (2 * n) sg b)).setWidth n
          overflow :=
            highBitsTest sg n (dividePattern sg (extendTo (2 * n) sg a <<< f) (extendTo (2 * n) sg b)) } := by
  cases sg <;> rfl

/-- Dividing patterns divides their values toward zero; the one quotient that does not fit, MIN by −1, wraps. -/
theorem dividePattern_eq_ofInt {m : Nat} (sg : Sign) (d e : BitVec m) :
    dividePattern sg d e = BitVec.ofInt m ((patternVal sg d).tdiv (patternVal sg e)) := by
  cases sg with
  | unsigned =>
    rw [dividePattern, patternVal, patternVal, ← Int.ofNat_tdiv, BitVec.ofInt_natCast, ← BitVec.toNat_udiv,
      BitVec.ofNat_toNat, BitVec.setWidth_eq]
  | signed =>
    apply BitVec.eq_of_toInt_eq
    rw [dividePattern, BitVec.toInt_sdiv, BitVec.toInt_ofInt]
    rfl

/-- A quotient is in range, but for that of MIN by −1: it is 2^(m−1). -/
theorem inRange_tdiv {m : Nat} {sg : Sign} {x : Int} (hx : InRange m sg x) {y : Int} (hy : InRange m sg y) :
    InRange m sg (x.tdiv y) ∨ sg = .signed ∧ 2 * x.tdiv y = 2 ^ m := by
  have hle : (x.tdiv y).natAbs ≤ x.natAbs := by
    rw [Int.natAbs_tdiv]
    exact Nat.div_le_self _ _
  cases sg with
  | unsigned =>
    obtain ⟨hlower, hupper⟩ := hx
    have hnonneg := Int.tdiv_nonneg hlower hy.1
    exact .inl ⟨hnonneg, by omega⟩
  | signed =>
    obtain ⟨hlower, hupper⟩ := hx
    by_cases hmax : 2 * x.tdiv y = 2 ^ m
    · exact .inr ⟨rfl, hmax⟩
    · exact .inl ⟨by omega, by omega⟩

/-- The wide quotient 2^(2n−1) wraps to its negative; neither fits n bits, so the overflow test is right about it. -/
theorem highBitsTest_ofInt_of_two_mul_eq {n m : Nat} (hn : 0 < n) (h : n < m) {x : Int} (hx : 2 * x = 2 ^ m) :
    highBitsTest .signed n (BitVec.ofInt m x) = true ∧ ¬ InRange n .signed x := by
  have hlt : (2 : Int) ^ n < 2 ^ m := pow_lt_pow_right₀ one_lt_two h
  have hpos : (0 : Int) < 2 ^ n := by positivity
  have hwrap : BitVec.ofInt m x = BitVec.ofInt m (-x) :=
    ofInt_eq_ofInt_iff.mpr ⟨1, by omega⟩
  have hrange : InRange m .signed (-x) := ⟨by omega, by omega⟩
  rw [highBitsTest_iff hn h.le, hwrap, patternVal_ofInt hrange]
  exact ⟨fun hfits => by have := hfits.1; omega, fun hfits => by have := hfits.2; omega⟩

theorem widenedDiv_leavesResult {n f : Nat} (hn : 0 < n) (hf : f ≤ n) (sg : Sign) (a b : BitVec n) :
    LeavesResult n sg ((exactShift (patternVal sg a) f).tdiv (patternVal sg b)) (widenedDiv n sg f a b) := by
  have hle : n ≤ 2 * n := by omega
  have hdividend : InRange (2 * n) sg (exactShift (patternVal sg a) f) := by
    rw [exactShift_eq]
    exact ((patternVal_inRange sg a).shiftLeft f).mono (by omega)
  have hdivisor : InRange (2 * n) sg (patternVal sg b) := (patternVal_inRange sg b).mono hle
  have hquotient : dividePattern sg (extendTo (2 * n) sg a <<< f) (extendTo (2 * n) sg b)
      = BitVec.ofInt (2 * n) ((exactShift (patternVal sg a) f).tdiv (patternVal sg b)) := by
    rw [dividePattern_eq_ofInt, patternVal_extendTo hle, extendTo_eq_ofInt hle, ofInt_shiftLeft, ← exactShift_eq,
      patternVal_ofInt hdividend]
  rw [widenedDiv_eq, hquotient]
  refine ⟨setWidth_ofInt hle _, ?_⟩
  rcases inRange_tdiv hdividend hdivisor with hfits | ⟨rfl, hmax⟩
  · rw [highBitsTest_iff hn hle, patternVal_ofInt hfits]
  · obtain ⟨htest, hout⟩ := highBitsTest_ofInt_of_two_mul_eq hn (by omega) hmax
    exact iff_of_true htest hout

/-- Settles O27: the quotient fits in 2N bits or is one that wraps there, and then it overflows N bits either way. -/
theorem widenedDivMatchesTheExactRule : Obligations.WidenedDivMatchesTheExactRule := by
  intro w sg f a b hf _
  simp only [val_eq_patternVal]
  exact (widenedDiv_leavesResult (bits_pos w) hf sg _ _).eq_mk

/-! ## MULADD (43_muladd.md R192, R193) -/

/-- A product out of range stays so when it is doubled at least once and an operand is added. -/
theorem not_inRange_shift_add {n m : Nat} {sg : Sign} {p c : Int} (hwide : InRange m sg p) (hp : ¬ InRange n sg p)
    (hc : InRange n sg c) {k : Nat} (hk : 1 ≤ k) : ¬ InRange n sg (p * 2 ^ k + c) := by
  have hpow : (2 : Int) ≤ 2 ^ k := le_self_pow₀ one_le_two (by omega)
  have hpos : (0 : Int) < 2 ^ n := by positivity
  intro hx
  cases sg with
  | unsigned =>
    have hp0 : 0 ≤ p := hwide.1
    have hp2 : p * 1 ≤ p * 2 ^ k := mul_le_mul_of_nonneg_left (by omega) hp0
    have hc0 := hc.1
    have hupper := hx.2
    exact hp ⟨hp0, by omega⟩
  | signed =>
    obtain ⟨hcl, hcu⟩ := hc
    obtain ⟨hlower, hupper⟩ := hx
    rcases le_total 0 p with hp0 | hp0
    · have hp2 : p * 2 ≤ p * 2 ^ k := mul_le_mul_of_nonneg_left hpow hp0
      exact hp ⟨by omega, by omega⟩
    · have hp2 : p * 2 ^ k ≤ p * 2 := mul_le_mul_of_nonpos_left hpow hp0
      exact hp ⟨by omega, by omega⟩

/-- What the normalisation of the product P must give: a product that is the pattern of a number v, whose floor at the
normalised shift is the scaled product; v fits 2N bits unless the first check reports it, and then the exact result
overflows whatever the addend (43_muladd.md R192). -/
structure Normalises (n : Nat) (sg : Sign) (p f v : Int) (z : Normalised (2 * n)) : Prop where
  product : z.product = BitVec.ofInt (2 * n) v
  shift : z.shift ≤ n
  floor : floorShift v z.shift = scaleProduct p f
  fits : z.lost = false → InRange (2 * n) sg v
  overflows : z.lost = true → ∀ c, InRange n sg c → ¬ InRange n sg (scaleProduct p f + c)

theorem floorShift_floorShift (x : Int) (j k : Nat) : floorShift (floorShift x j) k = floorShift x (j + k) := by
  have hpos : (0 : Int) ≤ ((2 ^ j : Nat) : Int) := (two_pow_pos j).le
  simp only [floorShift]
  rw [Int.ediv_ediv_of_nonneg hpos, ← Nat.cast_mul, ← pow_add]

/-- A shift to the left undone by a shift to the right that is no greater. -/
theorem floorShift_mul_two_pow (x : Int) {j k m : Nat} (h : j + k = m) : floorShift (x * 2 ^ m) k = x * 2 ^ j := by
  have hpos : ((2 ^ k : Nat) : Int) ≠ 0 := (two_pow_pos k).ne'
  have hsplit : x * 2 ^ m = x * 2 ^ j * ((2 ^ k : Nat) : Int) := by
    rw [← h]
    push_cast
    ring
  rw [floorShift, hsplit, Int.mul_ediv_cancel _ hpos]

/-- 43_muladd.md R192, in its three ranges of f. -/
theorem normaliseFrac_normalises {n : Nat} {f p : Int} (hn : 0 < n) (hlower : -n ≤ f) (hupper : f ≤ 2 * n)
    {sg : Sign} {q : BitVec (2 * n)} (hq : q = BitVec.ofInt (2 * n) p) (hp : InRange (2 * n) sg p) :
    ∃ v, Normalises n sg p f v (normaliseFrac n sg f q) := by
  have hval : patternVal sg q = p := by rw [hq, patternVal_ofInt hp]
  unfold normaliseFrac
  split_ifs with hlarge hnonneg
  · have hproduct := patternVal_shiftPattern sg q n
    rw [hval] at hproduct
    refine ⟨floorShift p n, ?_, ?_, ?_, fun _ => hproduct ▸ patternVal_inRange sg _, nofun⟩
    · rw [← hproduct, ofInt_patternVal]
    · dsimp only
      omega
    · rw [floorShift_floorShift, scaleProduct, if_pos (by omega)]
      congr 1
      dsimp only
      omega
  · refine ⟨p, hq, ?_, ?_, fun _ => hp, nofun⟩
    · dsimp only
      omega
    · rw [scaleProduct, if_pos hnonneg]
  · have hscaled : scaleProduct p f = p * 2 ^ (-f).toNat := by rw [scaleProduct, if_neg hnonneg, exactShift_eq]
    have hlost := highBitsTest_iff hn (by omega : n ≤ 2 * n) sg q
    rw [hval] at hlost
    refine ⟨p * 2 ^ n, ?_, ?_, ?_, fun h => ?_, fun h c hc => ?_⟩
    · rw [hq, ofInt_shiftLeft]
    · dsimp only
      omega
    · rw [hscaled]
      exact floorShift_mul_two_pow p (show (-f).toNat + (f + n).toNat = n by omega)
    · have hfits : InRange n sg p := by
        by_contra hout
        rw [hlost.mpr hout] at h
        cases h
      rw [two_mul]
      exact hfits.shiftLeft n
    · rw [hscaled]
      exact not_inRange_shift_add hp (hlost.mp h) hc (by omega)

theorem floorShift_add_mul (x c : Int) (k : Nat) : floorShift (x + c * 2 ^ k) k = floorShift x k + c := by
  have hpos : ((2 ^ k : Nat) : Int) ≠ 0 := (two_pow_pos k).ne'
  have hcast : (2 : Int) ^ k = ((2 ^ k : Nat) : Int) := by push_cast; rfl
  rw [floorShift, floorShift, hcast, Int.add_mul_ediv_right _ _ hpos]

theorem widenedMulAdd_leavesResult {n : Nat} {f : Int} (hn : 0 < n) (hlower : -n ≤ f) (hupper : f ≤ 2 * n) (sg : Sign)
    (a b c : BitVec n) :
    LeavesResult n sg (scaleProduct (patternVal sg a * patternVal sg b) f + patternVal sg c)
      (widenedMulAdd n sg f a b c) := by
  obtain ⟨hproduct, hfits⟩ := extendTo_mul_extendTo sg a b
  obtain ⟨v, hz⟩ := normaliseFrac_normalises hn hlower hupper hproduct hfits
  have hc := patternVal_inRange sg c
  simp only [widenedMulAdd]
  generalize normaliseFrac n sg f (extendTo (2 * n) sg a * extendTo (2 * n) sg b) = z at hz
  obtain ⟨hzproduct, hshift, hfloor, hzfits, hoverflows⟩ := hz
  have haddend : extendTo (2 * n) sg c <<< z.shift = BitVec.ofInt (2 * n) (patternVal sg c * 2 ^ z.shift) := by
    rw [extendTo_eq_ofInt (by omega), ofInt_shiftLeft]
  have haddendFits : InRange (2 * n) sg (patternVal sg c * 2 ^ z.shift) := (hc.shiftLeft z.shift).mono (by omega)
  have hsum : z.product + extendTo (2 * n) sg c <<< z.shift
      = BitVec.ofInt (2 * n) (v + patternVal sg c * 2 ^ z.shift) := by
    rw [hzproduct, haddend, BitVec.ofInt_add]
  have hresult : floorShift (v + patternVal sg c * 2 ^ z.shift) z.shift
      = scaleProduct (patternVal sg a * patternVal sg b) f + patternVal sg c := by
    rw [floorShift_add_mul, hfloor]
  refine ⟨?_, ?_⟩
  · rw [hsum, setWidth_shiftPattern (by omega), hresult]
  · rw [hsum, Bool.or_eq_true, Bool.or_eq_true, highBitsTest_iff hn (by omega), patternVal_shiftPattern]
    cases hlost : z.lost with
    | true => exact iff_of_true (.inl (.inl rfl)) (hoverflows hlost _ hc)
    | false =>
      rw [addOverflow_iff (by omega), hzproduct, haddend, patternVal_ofInt (hzfits hlost), patternVal_ofInt haddendFits]
      by_cases hwide : InRange (2 * n) sg (v + patternVal sg c * 2 ^ z.shift)
      · rw [patternVal_ofInt hwide, hresult]
        simp only [Bool.false_eq_true, hwide, not_true_eq_false, or_self, false_or]
      · refine iff_of_true (.inl (.inr hwide)) fun hx => hwide ?_
        rw [← hresult] at hx
        exact (inRange_of_floorShift hn hx).mono (by omega)

/-- Settles O28: the first check finds a product too large for any addend; if it is silent, the second is the range
test of the sum in 2N bits, and the third that of the sum realigned. -/
theorem widenedMuladdChecksAreExactlyOverflow : Obligations.WidenedMuladdChecksAreExactlyOverflow := by
  intro w sg f a b c hlower hupper
  simp only [val_eq_patternVal]
  exact (widenedMulAdd_leavesResult (bits_pos w) hlower hupper sg _ _ _).eq_mk

end Sys2Proof.Machine

/-! # The limb engine

At N = 128 the limb engine's product, sum and realignment are the 256-bit operations of the widened tier
(44_limb_engine.md R202 to R208), so MUL and MULADD follow from it; DIV divides magnitudes (R210 to R214). -/

namespace Sys2Proof.Machine

/-! ## Limbs (44_limb_engine.md R201) -/

theorem limbOf128_eq (p : Word128) (i : Nat) : limbOf128 p i = p.toNat / 2 ^ (64 * i) % limbBase := by
  rw [limbOf128, BitVec.extractLsb'_toNat, Nat.shiftRight_eq_div_pow, limbBase]

theorem limbOf256_eq (q : Word256) (i : Nat) : limbOf256 q i = q.toNat / 2 ^ (64 * i) % limbBase := by
  rw [limbOf256, BitVec.extractLsb'_toNat, Nat.shiftRight_eq_div_pow, limbBase]

/-- A 128-bit pattern is its two limbs. -/
theorem toNat_eq_limbs128 (p : Word128) : p.toNat = limbOf128 p 1 * limbBase + limbOf128 p 0 := by
  have hlt := p.isLt
  simp only [limbOf128_eq, limbBase]
  omega

/-- A 256-bit quantity is its four limbs. -/
theorem toNat_eq_limbs256 (q : Word256) :
    q.toNat = ((limbOf256 q 3 * limbBase + limbOf256 q 2) * limbBase + limbOf256 q 1) * limbBase + limbOf256 q 0 := by
  have hlt := q.isLt
  simp only [limbOf256_eq, limbBase]
  omega

/-! ## Multiply (44_limb_engine.md R202, R203) -/

/-- The carries lose nothing: the four limbs are the sum of the four partial products at their places. -/
theorem carry_partialProducts (p00 p01 p10 p11 : Nat) :
    let t1 := p00 / limbBase + p01 % limbBase + p10 % limbBase
    let t2 := p11 % limbBase + p01 / limbBase + p10 / limbBase + t1 / limbBase
    (((p11 / limbBase + t2 / limbBase) * limbBase + t2 % limbBase) * limbBase + t1 % limbBase) * limbBase
        + p00 % limbBase
      = p11 * (limbBase * limbBase) + (p01 + p10) * limbBase + p00 := by
  simp only [limbBase]
  omega

/-- The unsigned product of two patterns, exactly. -/
theorem limbProduct_eq (a b : Word128) : limbProduct a b = BitVec.ofNat 256 (a.toNat * b.toNat) := by
  simp only [limbProduct, fromLimbs, carry_partialProducts]
  congr 1
  rw [toNat_eq_limbs128 a, toNat_eq_limbs128 b]
  ring

/-- A pattern's signed value, its sign read off its first bit. -/
theorem patternVal_signed_eq {m : Nat} (p : BitVec m) :
    patternVal .signed p = p.toNat - if p.msb then 2 ^ m else 0 := by
  rw [patternVal, BitVec.toInt_eq_msb_cond]
  split_ifs
  · push_cast
    rfl
  · rw [sub_zero]

/-- The correction of R203 in the upper half of the product. -/
theorem correction_eq_ofInt (s : Bool) (p : Word128) :
    (if s then p.setWidth 256 <<< 128 else 0 : Word256)
      = BitVec.ofInt 256 (p.toNat * if s then 2 ^ 128 else 0) := by
  have hwide : p.setWidth 256 = BitVec.ofInt 256 p.toNat := by rw [BitVec.ofInt_natCast, BitVec.ofNat_toNat]
  cases s with
  | false => simp
  | true => simp only [if_true, hwide, ofInt_shiftLeft]

/-- R203: the corrected product is that of the extended operands. -/
theorem signedLimbProduct_eq (sg : Sign) (a b : Word128) :
    signedLimbProduct sg a b = extendTo 256 sg a * extendTo 256 sg b := by
  rw [extendTo_eq_ofInt (by decide), extendTo_eq_ofInt (by decide), ← BitVec.ofInt_mul]
  cases sg with
  | unsigned =>
    rw [signedLimbProduct, limbProduct_eq, patternVal, patternVal, ← Nat.cast_mul, BitVec.ofInt_natCast]
  | signed =>
    have hsub : ∀ x y : Int, BitVec.ofInt 256 (x - y) = BitVec.ofInt 256 x - BitVec.ofInt 256 y := fun x y => by
      rw [sub_eq_add_neg, BitVec.ofInt_add, BitVec.ofInt_neg, ← BitVec.sub_eq_add_neg]
    rw [signedLimbProduct, limbProduct_eq, correction_eq_ofInt, correction_eq_ofInt, ← BitVec.ofInt_natCast, ← hsub,
      ← hsub, ofInt_eq_ofInt_iff, patternVal_signed_eq, patternVal_signed_eq]
    push_cast
    refine ⟨-(if a.msb then 1 else 0) * (if b.msb then 1 else 0), ?_⟩
    cases a.msb <;> cases b.msb <;> simp <;> ring

/-! ## The realignment (44_limb_engine.md R204) -/

/-- Reduction by 2^m leaves the n bits from bit k on alone, if they lie below bit m. -/
theorem floorShift_emod {n k m : Nat} (h : n + k ≤ m) (x : Int) :
    floorShift (x % 2 ^ m) k % 2 ^ n = floorShift x k % 2 ^ n := by
  have hsplit : (2 : Int) ^ m = 2 ^ n * 2 ^ (m - n - k) * 2 ^ k := by
    rw [← pow_add, ← pow_add]
    congr 1
    omega
  have hx : x = x % 2 ^ m + 2 ^ n * (2 ^ (m - n - k) * (x / 2 ^ m)) * 2 ^ k := by
    have hdecomp := Int.emod_add_mul_ediv x (2 ^ m)
    nth_rw 2 [hsplit] at hdecomp
    linear_combination -hdecomp
  conv_rhs => rw [hx, floorShift_add_mul, Int.add_mul_emod_self_left]

/-- Reduction by 2^m forgets the sign. -/
theorem patternVal_emod {m : Nat} (sg : Sign) (q : BitVec m) : patternVal sg q % 2 ^ m = q.toNat := by
  have hne : ((2 ^ m : Nat) : Int) ≠ 0 := (two_pow_pos m).ne'
  have hq := congrArg BitVec.toNat (ofInt_patternVal sg q)
  rw [BitVec.toNat_ofInt] at hq
  rw [← hq, Int.toNat_of_nonneg (Int.emod_nonneg _ hne)]
  push_cast
  rfl

theorem limbBase_eq : (limbBase : Int) = 2 ^ 64 := by
  rw [limbBase]
  norm_num

/-- A limb of a quantity is read off the floor of its value, signed or not. -/
theorem limbOf256_eq_floorShift (sg : Sign) (q : Word256) {i : Nat} (hi : i < 4) :
    (limbOf256 q i : Int) = floorShift (patternVal sg q) (64 * i) % limbBase := by
  rw [limbBase_eq, ← floorShift_emod (m := 256) (by omega), patternVal_emod, limbOf256_eq, floorShift, ← limbBase_eq]
  push_cast
  rfl

/-- Beyond its four limbs a quantity is extended by its sign, so every limb is read off the floor of its value. -/
theorem extendedLimb_eq (sg : Sign) (q : Word256) (i : Nat) :
    (extendedLimb sg q i : Int) = floorShift (patternVal sg q) (64 * i) % limbBase := by
  by_cases hi : i < 4
  · simp only [extendedLimb, if_pos hi, limbOf256_eq_floorShift sg q hi]
  · simp only [extendedLimb, if_neg hi]
    have hpow : (2 : Int) ^ 256 ≤ ((2 ^ (64 * i) : Nat) : Int) := by
      exact_mod_cast Nat.pow_le_pow_right two_pos (show 256 ≤ 64 * i by omega)
    cases sg with
    | unsigned =>
      obtain ⟨hlower, hupper⟩ := patternVal_inRange .unsigned q
      have hfloor : floorShift (patternVal .unsigned q) (64 * i) = 0 :=
        (floorShift_eq_iff _ _ _).mpr ⟨by omega, by omega⟩
      rw [hfloor]
      rfl
    | signed =>
      obtain ⟨hlower, hupper⟩ := patternVal_inRange .signed q
      have hsign : q.msb = decide (patternVal .signed q < 0) := BitVec.msb_eq_toInt
      by_cases hneg : patternVal .signed q < 0
      · have hfloor : floorShift (patternVal .signed q) (64 * i) = -1 :=
          (floorShift_eq_iff _ _ _).mpr ⟨by omega, by omega⟩
        rw [hfloor, hsign, decide_eq_true hneg]
        rfl
      · have hfloor : floorShift (patternVal .signed q) (64 * i) = 0 :=
          (floorShift_eq_iff _ _ _).mpr ⟨by omega, by omega⟩
        rw [hfloor, hsign, decide_eq_false hneg]
        rfl

/-- Two neighbouring limbs hold the 128 bits from the lower one's first bit on. -/
theorem neighbouring_limbs (y : Int) :
    floorShift y 64 % limbBase * limbBase + y % limbBase = y % 2 ^ 128 := by
  simp only [floorShift, limbBase]
  norm_num
  omega

/-- R204: a limb after the shift is 64 bits out of two neighbouring limbs before it. -/
theorem shiftedLimb_eq (sg : Sign) (q : Word256) (k i : Nat) :
    (shiftedLimb sg q k i : Int) = floorShift (floorShift (patternVal sg q) k) (64 * i) % limbBase := by
  have hupper : floorShift (patternVal sg q) (64 * (i + k / 64 + 1))
      = floorShift (floorShift (patternVal sg q) (64 * (i + k / 64))) 64 := by
    rw [floorShift_floorShift, Nat.mul_add_one]
  have hpair : ((extendedLimb sg q (i + k / 64 + 1) * limbBase + extendedLimb sg q (i + k / 64) : Nat) : Int)
      = floorShift (patternVal sg q) (64 * (i + k / 64)) % 2 ^ 128 := by
    rw [Nat.cast_add, Nat.cast_mul, extendedLimb_eq, extendedLimb_eq, hupper, neighbouring_limbs]
  have hbits : (shiftedLimb sg q k i : Int)
      = floorShift (floorShift (patternVal sg q) (64 * (i + k / 64)) % 2 ^ 128) (k % 64) % 2 ^ 64 := by
    rw [← hpair, ← limbBase_eq, floorShift, shiftedLimb]
    norm_cast
  rw [hbits, floorShift_emod (by omega), floorShift_floorShift, floorShift_floorShift, limbBase_eq]
  congr 2
  omega

/-- Four limbs read off the floors of a number make its 256-bit pattern. -/
theorem fromLimbs_eq_ofInt {x : Int} {w3 w2 w1 w0 : Nat} (h0 : (w0 : Int) = floorShift x (64 * 0) % limbBase)
    (h1 : (w1 : Int) = floorShift x (64 * 1) % limbBase) (h2 : (w2 : Int) = floorShift x (64 * 2) % limbBase)
    (h3 : (w3 : Int) = floorShift x (64 * 3) % limbBase) : fromLimbs w3 w2 w1 w0 = BitVec.ofInt 256 x := by
  rw [fromLimbs, ← BitVec.ofInt_natCast, ofInt_eq_ofInt_iff]
  simp only [floorShift, limbBase] at h0 h1 h2 h3 ⊢
  norm_num at h0 h1 h2 h3 ⊢
  omega

theorem limbShiftRight_eq (sg : Sign) (q : Word256) (k : Nat) : limbShiftRight sg q k = shiftPattern sg q k := by
  rw [shiftPattern_eq_ofInt, limbShiftRight]
  exact fromLimbs_eq_ofInt (shiftedLimb_eq sg q k 0) (shiftedLimb_eq sg q k 1) (shiftedLimb_eq sg q k 2)
    (shiftedLimb_eq sg q k 3)

/-! ## MUL (44_limb_engine.md R202 to R204) -/

/-- At N = 128 an operand is the whole register. -/
theorem val_w128 (sg : Sign) (p : Word128) : val .w128 sg p = patternVal sg p := by
  rw [val_eq_patternVal]
  exact congrArg (patternVal sg) (BitVec.setWidth_eq p)

theorem limbMul_eq_widenedMul (sg : Sign) (f : Nat) (a b : Word128) : limbMul sg f a b = widenedMul 128 sg f a b := by
  simp only [limbMul, signedLimbProduct_eq, limbShiftRight_eq]
  rfl

/-- Settles O29: the engine's product and realignment are those of the widened tier at N = 128 (O26). -/
theorem limbMulMatchesTheExactRule : Obligations.LimbMulMatchesTheExactRule := by
  intro sg f a b hf
  rw [limbMul_eq_widenedMul, val_w128, val_w128]
  exact (widenedMul_leavesResult (by decide) hf sg a b).eq_mk (w := .w128)

/-! ## MULADD (44_limb_engine.md R205 to R207) -/

/-- R206: the carries lose nothing but the carry out of the fourth limb. -/
theorem limbAdd_eq (x y : Word256) : limbAdd x y = x + y := by
  apply BitVec.eq_of_toNat_eq
  rw [BitVec.toNat_add, toNat_eq_limbs256 x, toNat_eq_limbs256 y]
  simp only [limbAdd, fromLimbs, BitVec.toNat_ofNat, limbBase]
  omega

theorem limbNormalise_eq (sg : Sign) (f : Int) (p : Word256) : limbNormalise sg f p = normaliseFrac 128 sg f p := by
  have hlow : (p.setWidth 128).setWidth 256 <<< 128 = p <<< 128 := by
    ext i hi
    simp
    grind
  simp only [limbNormalise, limbShiftRight_eq, hlow]
  rfl

theorem limbMulAdd_eq_widenedMulAdd (sg : Sign) (f : Int) (a b c : Word128) :
    limbMulAdd sg f a b c = widenedMulAdd 128 sg f a b c := by
  simp only [limbMulAdd, signedLimbProduct_eq, limbNormalise_eq, limbAdd_eq, limbShiftRight_eq]
  rfl

/-- Settles O31: the engine's normalisation, sum and checks are those of the widened tier at N = 128 (O28). -/
theorem limbMuladdMatchesTheExactRule : Obligations.LimbMuladdMatchesTheExactRule := by
  intro sg f a b c hlower hupper
  rw [limbMulAdd_eq_widenedMulAdd, val_w128, val_w128, val_w128]
  exact (widenedMulAdd_leavesResult (by decide) hlower hupper sg a b c).eq_mk (w := .w128)

/-! ## DIV (44_limb_engine.md R210 to R214) -/

/-- R210: |A| as a word, |MIN| included. -/
theorem toNat_limbMagnitude (sg : Sign) (a : Word128) : (limbMagnitude sg a).toNat = (patternVal sg a).natAbs := by
  cases sg with
  | unsigned => rfl
  | signed =>
    have hlt := a.isLt
    have hsign : a.msb = decide (2 ^ 127 ≤ a.toNat) := BitVec.msb_eq_decide a
    rw [limbMagnitude, patternVal_signed_eq, hsign]
    simp only [decide_eq_true_eq]
    split_ifs
    · rw [BitVec.toNat_neg]
      omega
    · omega

/-- R211: the two words hold mA · 2^f, whatever f up to 128. -/
theorem dividendWords_value {f : Nat} (hf : f ≤ 128) (ma : Word128) :
    (dividendWords f ma).1.toNat * 2 ^ 128 + (dividendWords f ma).2.toNat = ma.toNat * 2 ^ f := by
  rw [dividendWords]
  split_ifs with hzero hfull
  · simp [hzero]
  · simp [hfull]
  · have hsplit : 2 ^ 128 = 2 ^ (128 - f) * 2 ^ f := by
      rw [← pow_add]
      congr 1
      omega
    have hdecomp := Nat.div_add_mod' ma.toNat (2 ^ (128 - f))
    rw [BitVec.toNat_ushiftRight, BitVec.toNat_shiftLeft, Nat.shiftRight_eq_div_pow, Nat.shiftLeft_eq, hsplit,
      Nat.mul_mod_mul_right, ← mul_assoc, ← add_mul, hdecomp]

/-- R212, R214: the quotient of the magnitudes fits the four limbs. -/
theorem toNat_wideDivide {h l d : Word128} :
    (wideDivide h l d).1.toNat = (h.toNat * 2 ^ 128 + l.toNat) / d.toNat := by
  have hh := h.isLt
  have hl := l.isLt
  have hle : (h.toNat * 2 ^ 128 + l.toNat) / d.toNat ≤ h.toNat * 2 ^ 128 + l.toNat := Nat.div_le_self _ _
  simp only [wideDivide]
  rw [BitVec.toNat_ofNat, Nat.mod_eq_of_lt (by omega)]

/-- The quotient of the magnitudes, of which R213 makes the result. -/
def magnitudeQuotient (sg : Sign) (f : Nat) (a b : Word128) : Word256 :=
  (wideDivide (dividendWords f (limbMagnitude sg a)).1 (dividendWords f (limbMagnitude sg a)).2
    (limbMagnitude sg b)).1

theorem toNat_magnitudeQuotient {f : Nat} (hf : f ≤ 128) (sg : Sign) (a b : Word128) :
    (magnitudeQuotient sg f a b).toNat
      = ((exactShift (patternVal sg a) f).tdiv (patternVal sg b)).natAbs := by
  rw [magnitudeQuotient, toNat_wideDivide, dividendWords_value hf, toNat_limbMagnitude, toNat_limbMagnitude,
    Int.natAbs_tdiv, exactShift_eq, Int.natAbs_mul, Int.natAbs_pow]
  rfl

/-- R213: the quotient toward zero is negative, or zero, where the signs differ, and not negative where they agree. -/
theorem tdiv_sign (f : Nat) (a b : Word128) :
    (a.msb ≠ b.msb → (exactShift (patternVal .signed a) f).tdiv (patternVal .signed b) ≤ 0)
      ∧ (a.msb = b.msb → 0 ≤ (exactShift (patternVal .signed a) f).tdiv (patternVal .signed b)) := by
  have hpos : (0 : Int) ≤ 2 ^ f := by positivity
  have ha : a.msb = decide (patternVal .signed a < 0) := BitVec.msb_eq_toInt
  have hb : b.msb = decide (patternVal .signed b < 0) := BitVec.msb_eq_toInt
  rw [ha, hb, exactShift_eq]
  generalize patternVal .signed a = x
  generalize patternVal .signed b = y
  rcases lt_or_ge x 0 with hx | hx <;> rcases lt_or_ge y 0 with hy | hy
  · have hshift : x * 2 ^ f ≤ 0 := mul_nonpos_of_nonpos_of_nonneg hx.le hpos
    simp [hx, hy, Int.tdiv_nonneg_of_nonpos_of_nonpos hshift hy.le]
  · have hshift : 0 ≤ -(x * 2 ^ f) := neg_nonneg.mpr (mul_nonpos_of_nonpos_of_nonneg hx.le hpos)
    have hquot := Int.tdiv_nonneg hshift hy
    rw [Int.neg_tdiv] at hquot
    simp [hx, hy.not_gt, neg_nonneg.mp hquot]
  · have hshift : 0 ≤ x * 2 ^ f := mul_nonneg hx hpos
    simp [hx.not_gt, hy, Int.tdiv_nonpos_of_nonneg_of_nonpos hshift hy.le]
  · have hshift : 0 ≤ x * 2 ^ f := mul_nonneg hx hpos
    simp [hx.not_gt, hy.not_gt, Int.tdiv_nonneg hshift hy]

/-! ### The words of the quotient of magnitudes -/

theorem quotientHigh_ne_zero_iff (q : Word256) : q.extractLsb' 128 128 ≠ 0#128 ↔ 2 ^ 128 ≤ q.toNat := by
  have hlt := q.isLt
  have hhigh : (q.extractLsb' 128 128).toNat = q.toNat / 2 ^ 128 := by
    rw [BitVec.extractLsb'_toNat, Nat.shiftRight_eq_div_pow, Nat.mod_eq_of_lt (by omega)]
  rw [ne_eq, ← BitVec.toNat_inj, hhigh, BitVec.toNat_ofNat]
  omega

theorem toNat_quotientLow (q : Word256) : (q.extractLsb' 0 128).toNat = q.toNat % 2 ^ 128 := by
  rw [BitVec.extractLsb'_toNat, Nat.shiftRight_zero]

theorem quotientLow_eq_ofInt (q : Word256) : q.extractLsb' 0 128 = BitVec.ofInt 128 q.toNat := by
  rw [BitVec.ofInt_natCast]
  apply BitVec.eq_of_toNat_eq
  rw [toNat_quotientLow, BitVec.toNat_ofNat]

/-- R213, V: the high word is not 0 or the low word is above a limit exactly when the quotient is above it. -/
theorem quotientWords_above_iff (q : Word256) {limit : Nat} (hlimit : limit < 2 ^ 128) :
    (decide (q.extractLsb' 128 128 ≠ 0#128) || decide (limit < (q.extractLsb' 0 128).toNat)) = true
      ↔ limit < q.toNat := by
  rw [Bool.or_eq_true, decide_eq_true_iff, decide_eq_true_iff, quotientHigh_ne_zero_iff, toNat_quotientLow]
  omega

/-- R213, S unsigned. -/
theorem leavesResult_unsigned_quotient (q : Word256) :
    LeavesResult 128 .unsigned q.toNat
      { pattern := q.extractLsb' 0 128, overflow := decide (q.extractLsb' 128 128 ≠ 0#128) } where
  pattern := quotientLow_eq_ofInt q
  overflow := by
    rw [decide_eq_true_iff, quotientHigh_ne_zero_iff, InRange]
    omega

/-- R213, S signed, the signs equal. -/
theorem leavesResult_positive_quotient (q : Word256) :
    LeavesResult 128 .signed q.toNat
      { pattern := q.extractLsb' 0 128
        overflow :=
          decide (q.extractLsb' 128 128 ≠ 0#128) || decide (2 ^ 127 - 1 < (q.extractLsb' 0 128).toNat) } where
  pattern := quotientLow_eq_ofInt q
  overflow := by
    rw [quotientWords_above_iff q (by decide), InRange]
    omega

/-- R213, S signed, the signs not equal: −2^127 fits. -/
theorem leavesResult_negative_quotient (q : Word256) :
    LeavesResult 128 .signed (-q.toNat)
      { pattern := -q.extractLsb' 0 128
        overflow :=
          decide (q.extractLsb' 128 128 ≠ 0#128) || decide (2 ^ 127 < (q.extractLsb' 0 128).toNat) } where
  pattern := by rw [quotientLow_eq_ofInt, BitVec.ofInt_neg]
  overflow := by
    rw [quotientWords_above_iff q (by decide), InRange]
    omega

theorem limbDiv_signed_of_ne {a b : Word128} (h : a.msb ≠ b.msb) (f : Nat) :
    limbDiv .signed f a b
      = { pattern := -(magnitudeQuotient .signed f a b).extractLsb' 0 128
          overflow := decide ((magnitudeQuotient .signed f a b).extractLsb' 128 128 ≠ 0#128)
            || decide (2 ^ 127 < ((magnitudeQuotient .signed f a b).extractLsb' 0 128).toNat) } :=
  if_pos (bne_iff_ne.mpr h)

theorem limbDiv_signed_of_eq {a b : Word128} (h : a.msb = b.msb) (f : Nat) :
    limbDiv .signed f a b
      = { pattern := (magnitudeQuotient .signed f a b).extractLsb' 0 128
          overflow := decide ((magnitudeQuotient .signed f a b).extractLsb' 128 128 ≠ 0#128)
            || decide (2 ^ 127 - 1 < ((magnitudeQuotient .signed f a b).extractLsb' 0 128).toNat) } :=
  if_neg fun hne => bne_iff_ne.mp hne h

theorem limbDiv_leavesResult {f : Nat} (hf : f ≤ 128) (sg : Sign) (a b : Word128) :
    LeavesResult 128 sg ((exactShift (patternVal sg a) f).tdiv (patternVal sg b)) (limbDiv sg f a b) := by
  have hmagnitude := toNat_magnitudeQuotient hf sg a b
  cases sg with
  | unsigned =>
    have hnonneg : 0 ≤ (exactShift (patternVal .unsigned a) f).tdiv (patternVal .unsigned b) := by
      rw [exactShift_eq]
      exact Int.tdiv_nonneg (mul_nonneg (Int.natCast_nonneg _) (by positivity)) (Int.natCast_nonneg _)
    rw [← Int.natAbs_of_nonneg hnonneg, ← hmagnitude]
    exact leavesResult_unsigned_quotient _
  | signed =>
    obtain ⟨hnonpos, hnonneg⟩ := tdiv_sign f a b
    by_cases hsigns : a.msb = b.msb
    · rw [← Int.natAbs_of_nonneg (hnonneg hsigns), ← hmagnitude, limbDiv_signed_of_eq hsigns]
      exact leavesResult_positive_quotient _
    · have hquot : (exactShift (patternVal .signed a) f).tdiv (patternVal .signed b)
          = -((magnitudeQuotient .signed f a b).toNat : Int) := by
        have := hnonpos hsigns
        rw [hmagnitude]
        omega
      rw [hquot, limbDiv_signed_of_ne hsigns]
      exact leavesResult_negative_quotient _

/-- Settles O30: the magnitudes' quotient is that of the exact quotient, whose sign R213 gives back. -/
theorem limbDivMatchesTheExactRule : Obligations.LimbDivMatchesTheExactRule := by
  intro sg f a b hf _
  rw [val_w128, val_w128]
  exact (limbDiv_leavesResult hf sg a b).eq_mk (w := .w128)

end Sys2Proof.Machine
